-- ==== Sys2Proof/Word.lean ====
section
/-!
DEFINITION. The word types of the block (00_scope.md R8: every quantity is unsigned; a byte is 8 bits).
-/

namespace Sys2Proof

/-- A byte: a node address, a byte of the line, a byte of a record (R8, R140). -/
abbrev Byte := BitVec 8

/-- A 16-bit value: payload lengths, buffer indices, the checksum (R6: `LEN_W`, `Checksum16`). -/
abbrev Half := BitVec 16

/-- A 32-bit value: every duration, the timer, an oracle answer (R6: `TICK_W`). -/
abbrev Word := BitVec 32

end Sys2Proof
end

