-- ==== Sys2Proof/Syntax.lean ====
section
/-!
DEFINITION. The operations of the block (30_encoding.md R96): one constructor per row of the operation table,
with the operands of that row, in its order.
-/

namespace Sys2Proof

/-- The fifteen operations (R96). `send` and `rxdeliver` carry the operand `len` beside the payload, as
their records do; `Instr.wf` says that the two agree. -/
inductive Instr
  /-- host: put the block in its initial state (R290) -/
  | reset
  /-- host: write a configuration register (R150) -/
  | cfgwr (idx : Byte) (val : Word)
  /-- host: read a register (R151) -/
  | rdreg (idx : Byte)
  /-- host: validate the configuration, lock it, boot the MAC (R152) -/
  | init
  /-- host: request the transmission of a frame (R174) -/
  | send (dst : Byte) (len : Half) (payload : List Byte)
  /-- host: withdraw the pending request (R175) -/
  | cancel
  /-- bus driver: one byte has arrived (R177) -/
  | byte (b : Byte)
  /-- clock: one tick has elapsed (R178) -/
  | tick
  /-- bus driver: the answer to `ask LINEIDLE()` (R263) -/
  | lineidle (q : Word)
  /-- entropy source: the answer to `ask RANDOM(range)` (R264) -/
  | random (v : Word)
  /-- to the bus driver: `enableTransmit` (R262) -/
  | txen (on : Bool)
  /-- to the bus driver: `writeByte` (R262) -/
  | write (b : Byte)
  /-- to the host: the final result of a send (R192) -/
  | senddone (status : Byte)
  /-- to the host: a received frame (R201) -/
  | rxdeliver (src : Byte) (len : Half) (payload : List Byte)
  /-- to the trace: a received frame was dropped (R268) -/
  | drop (reason : Byte)
  deriving DecidableEq, Repr

/-- The direction of an operation, the column `dir` of R96. -/
inductive Dir
  /-- `in`: toward the block -/
  | toBlock
  /-- `ans`: an oracle answer, consumed inside the step that asked -/
  | answer
  /-- `out`: from the block -/
  | fromBlock
  deriving DecidableEq, Repr

/-- The column `dir` of R96, row by row. -/
def Instr.dir : Instr → Dir
  | .reset => .toBlock
  | .cfgwr _ _ => .toBlock
  | .rdreg _ => .toBlock
  | .init => .toBlock
  | .send _ _ _ => .toBlock
  | .cancel => .toBlock
  | .byte _ => .toBlock
  | .tick => .toBlock
  | .lineidle _ => .answer
  | .random _ => .answer
  | .txen _ => .fromBlock
  | .write _ => .fromBlock
  | .senddone _ => .fromBlock
  | .rxdeliver _ _ _ => .fromBlock
  | .drop _ => .fromBlock

end Sys2Proof
end

