-- ==== Sys2Proof/WellFormed.lean ====
section
/-!
DEFINITION. Which operations have a record (30_encoding.md R97): the operand types already bound every field to
its width; what is left to check is that `len` counts the payload bytes of `SEND` and `RXDELIVER` (log 14).
-/

namespace Sys2Proof

/-- R96: the payload of `SEND` and of `RXDELIVER` is `len` bytes. Every other operation is well-formed. -/
def Instr.wf : Instr → Bool
  | .reset => true
  | .cfgwr _ _ => true
  | .rdreg _ => true
  | .init => true
  | .send _ len payload => payload.length == len.toNat
  | .cancel => true
  | .byte _ => true
  | .tick => true
  | .lineidle _ => true
  | .random _ => true
  | .txen _ => true
  | .write _ => true
  | .senddone _ => true
  | .rxdeliver _ len payload => payload.length == len.toNat
  | .drop _ => true

end Sys2Proof
end

