-- ==== Sys2Proof/Decode.lean ====
section
/-!
DEFINITION. Operation records (30_encoding.md R96, R97, R101): the decoder, total on any bytes, and after it
the encoder, both written from the patterns of R97. A record is the code byte followed by the operands, each
most significant byte first (20_memory.md R65).
-/

namespace Sys2Proof

/-- What the decoder makes of a byte sequence. -/
inductive Decoded
  /-- the record of an operation, and the bytes after it -/
  | record (i : Instr) (rest : List Byte)
  /-- no byte at all -/
  | empty
  /-- a code byte that R96 does not list: a decoder rejects it (R101) -/
  | reservedCode (c : Byte)
  /-- the bytes end inside the record -/
  | truncated
  /-- a 1-bit operand whose byte is neither 0 nor 1 (R97) -/
  | reservedOperand (b : Byte)
  deriving DecidableEq, Repr

/-! ### Operand assembly (R97, most significant byte first) -/

/-- A 16-bit operand from its two bytes. -/
def half (hi lo : Byte) : Half := hi.setWidth 16 <<< 8 ||| lo.setWidth 16

/-- A 32-bit operand from its four bytes. -/
def word (b3 b2 b1 b0 : Byte) : Word :=
  b3.setWidth 32 <<< 24 ||| b2.setWidth 32 <<< 16 ||| b1.setWidth 32 <<< 8 ||| b0.setWidth 32

/-- Read an 8-bit operand and go on with the bytes after it. -/
def withByte (bs : List Byte) (k : Byte → List Byte → Decoded) : Decoded :=
  match bs with
  | b :: rest => k b rest
  | [] => .truncated

/-- Read a 1-bit operand: its byte has the value 0 or 1 (R97). -/
def withBit (bs : List Byte) (k : Bool → List Byte → Decoded) : Decoded :=
  withByte bs fun b rest =>
    if b = 0#8 then k false rest else if b = 1#8 then k true rest else .reservedOperand b

/-- Read a 16-bit operand. -/
def withHalf (bs : List Byte) (k : Half → List Byte → Decoded) : Decoded :=
  match bs with
  | hi :: lo :: rest => k (half hi lo) rest
  | _ => .truncated

/-- Read a 32-bit operand. -/
def withWord (bs : List Byte) (k : Word → List Byte → Decoded) : Decoded :=
  match bs with
  | b3 :: b2 :: b1 :: b0 :: rest => k (word b3 b2 b1 b0) rest
  | _ => .truncated

/-- Read the `len` payload bytes that follow `len` (R97). -/
def withPayload (len : Half) (bs : List Byte) (k : List Byte → List Byte → Decoded) : Decoded :=
  if len.toNat ≤ bs.length then k (bs.take len.toNat) (bs.drop len.toNat) else .truncated

/-! ### The decoder -/

/-- The rows of R96 by name. -/
inductive OpCode
  | reset | cfgwr | rdreg | init | send | cancel | byte | tick | lineidle | random | txen | write | senddone
  | rxdeliver | drop
  deriving DecidableEq, Repr

/-- The row of a code byte (R96, column `code`); every other code byte is reserved (R101). -/
def opCode (c : Byte) : Option OpCode :=
  match c.toNat with
  | 0x00 => some .reset
  | 0x01 => some .cfgwr
  | 0x02 => some .rdreg
  | 0x03 => some .init
  | 0x04 => some .send
  | 0x05 => some .cancel
  | 0x10 => some .byte
  | 0x11 => some .tick
  | 0x18 => some .lineidle
  | 0x19 => some .random
  | 0x20 => some .txen
  | 0x21 => some .write
  | 0x22 => some .senddone
  | 0x23 => some .rxdeliver
  | 0x24 => some .drop
  | _ => none

/-- Read the operands of a row, in the order of R96. -/
def decodeOperands (op : OpCode) (bs : List Byte) : Decoded :=
  match op with
  | .reset => .record .reset bs
  | .cfgwr => withByte bs fun idx bs => withWord bs fun val rest => .record (.cfgwr idx val) rest
  | .rdreg => withByte bs fun idx rest => .record (.rdreg idx) rest
  | .init => .record .init bs
  | .send =>
    withByte bs fun dst bs => withHalf bs fun len bs => withPayload len bs fun payload rest =>
      .record (.send dst len payload) rest
  | .cancel => .record .cancel bs
  | .byte => withByte bs fun b rest => .record (.byte b) rest
  | .tick => .record .tick bs
  | .lineidle => withWord bs fun q rest => .record (.lineidle q) rest
  | .random => withWord bs fun v rest => .record (.random v) rest
  | .txen => withBit bs fun on rest => .record (.txen on) rest
  | .write => withByte bs fun b rest => .record (.write b) rest
  | .senddone => withByte bs fun status rest => .record (.senddone status) rest
  | .rxdeliver =>
    withByte bs fun src bs => withHalf bs fun len bs => withPayload len bs fun payload rest =>
      .record (.rxdeliver src len payload) rest
  | .drop => withByte bs fun reason rest => .record (.drop reason) rest

/-- Read one record from the front of a byte sequence (R96, R97, R101). -/
def decode (bs : List Byte) : Decoded :=
  match bs with
  | [] => .empty
  | c :: bs =>
    match opCode c with
    | none => .reservedCode c
    | some op => decodeOperands op bs

/-! ### The encoder -/

/-- The code byte of an operation (R96). -/
def code : Instr → Byte
  | .reset => 0x00
  | .cfgwr _ _ => 0x01
  | .rdreg _ => 0x02
  | .init => 0x03
  | .send _ _ _ => 0x04
  | .cancel => 0x05
  | .byte _ => 0x10
  | .tick => 0x11
  | .lineidle _ => 0x18
  | .random _ => 0x19
  | .txen _ => 0x20
  | .write _ => 0x21
  | .senddone _ => 0x22
  | .rxdeliver _ _ _ => 0x23
  | .drop _ => 0x24

/-- The two bytes of a 16-bit operand, most significant first. -/
def halfBytes (v : Half) : List Byte := [v.extractLsb' 8 8, v.extractLsb' 0 8]

/-- The four bytes of a 32-bit operand, most significant first. -/
def wordBytes (v : Word) : List Byte :=
  [v.extractLsb' 24 8, v.extractLsb' 16 8, v.extractLsb' 8 8, v.extractLsb' 0 8]

/-- The operand bytes of an operation, in the order of R96. -/
def operandBytes : Instr → List Byte
  | .reset => []
  | .cfgwr idx val => idx :: wordBytes val
  | .rdreg idx => [idx]
  | .init => []
  | .send dst len payload => dst :: halfBytes len ++ payload
  | .cancel => []
  | .byte b => [b]
  | .tick => []
  | .lineidle q => wordBytes q
  | .random v => wordBytes v
  | .txen on => [if on then 1 else 0]
  | .write b => [b]
  | .senddone status => [status]
  | .rxdeliver src len payload => src :: halfBytes len ++ payload
  | .drop reason => [reason]

/-- The record of an operation (R97). -/
def encode (i : Instr) : List Byte := code i :: operandBytes i

/-! ### The rows of spec/opcode_table.json -/

/-- The `n` bytes of a number, most significant byte first: a row of the operation table is one number whose
first byte, the code, is its most significant byte (the row's `match`, `mask` and `encoding`); log 2. -/
def numberBytes : Nat → Nat → List Byte
  | 0, _ => []
  | n + 1, w => BitVec.ofNat 8 (w / 256 ^ n) :: numberBytes n w

/-- How many payload bytes follow the bytes a row gives: `len` for `SEND` and `RXDELIVER`, none for the others. -/
def payloadCount : List Byte → Nat
  | [c, _, hi, lo] => if c = 0x04#8 ∨ c = 0x23#8 then (half hi lo).toNat else 0
  | _ => 0

/-- The record whose bytes a row gives as the number `w` of `nbits` bits; the payload, to which the row gives
no bits, is zeros (log 2). -/
def tableRecord (nbits w : Nat) : List Byte :=
  let header := numberBytes (nbits / 8) w
  header ++ List.replicate (payloadCount header) 0#8

/-- The operation the decoder reads from the record of a table row. -/
def decodeTableWord (nbits w : Nat) : Option Instr :=
  match decode (tableRecord nbits w) with
  | .record i _ => some i
  | _ => none

end Sys2Proof
end

