-- ==== Sys2Proof/Config.lean ====
section
/-!
DEFINITION. What an implementation fixes (00_scope.md R6) and what the environment chooses without the model
knowing the value: the free values.
-/

namespace Sys2Proof

/-- The implementation parameters that some rule reads (R6; 92_eei_decisions.md, "Open parameters,
collected"). The shared operations, `execFor`, `stepFor` and `coreFor` take them as an argument (Machine/Parameters.lean);
`Sys2Proof.Machine.defaultParams` holds the defaults of the spec. `TICK_PERIOD` and `REG_BASE` are read by no rule. -/
structure Params where
  /-- `Checksum16`: any deterministic function from byte sequences to 16 bits (R110) -/
  checksum : List Byte → Half
  /-- `CHAR_BITS`: bit times per byte on the line, 10 or 11 -/
  charBits : Nat
  /-- `PAYLOAD_CAP`: the largest `MAX_PAYLOAD` the buffers can hold -/
  payloadCap : Nat

/-- The ranges that 92_eei_decisions.md gives the parameters: `CHAR_BITS` is 10 or 11 and `PAYLOAD_CAP` at
most 65273, so that `BUF_CAP` fits 16 bits. -/
abbrev Params.Legal (P : Params) : Prop :=
  (P.charBits = 10 ∨ P.charBits = 11) ∧ P.payloadCap ≤ 65273

/-- FREE VALUE (DESIGN CHOICE, log 3; safe): the Bus Driver's answer to the `n`-th question of a run, where no
answer record has been supplied. Any 32-bit value is legal (R263; 93_implementation_defined.md U8). -/
opaque Config.lineIdleDraw : Nat → Word

/-- FREE VALUE (DESIGN CHOICE, log 3; safe): the Entropy Source's draw for the `n`-th question of a run, where
no answer record has been supplied. The step that asks reduces it below the range it asked, the only
limit R264 sets (93_implementation_defined.md U7). -/
opaque Config.randomDraw : Nat → Nat

end Sys2Proof
end

