-- ==== Sys2Proof/Machine/Codec.lean ====
section
/-!
DEFINITION. The frame codec (40_frame_codec.md): the size functions, the checksum, byte stuffing, `Encode` and
`Decode`. Pure functions; the checksum function and `MAX_PAYLOAD` are arguments.
-/

namespace Sys2Proof.Machine

/-! ### Sizes (00_scope.md R7) -/

/-- `RawLen(N)`: destination, source, payload, two checksum bytes. -/
def rawLen (n : Nat) : Nat := n + 4

/-- `StuffMax(L)`: the longest stuffed body of an `L`-byte raw frame. -/
def stuffMax (l : Nat) : Nat := l + l / 254 + 1

/-- `WireMax(N)`: the longest wire frame of an `N`-byte payload, its delimiter included. -/
def wireMax (n : Nat) : Nat := stuffMax (rawLen n) + 1

/-- `BUF_CAP`: the capacity of the session buffer (R6). -/
def bufCap (P : Params) : Nat := wireMax P.payloadCap

/-- `DELIM`: the reserved delimiter byte (30_encoding.md R82). -/
def delim : Byte := 0x00

/-! ### Checksum (R110, R111) -/

/-- One of the eight inner rounds of R111. -/
def crcBit (crc : Half) : Half := if crc.msb then (crc <<< 1) ^^^ 0x1021#16 else crc <<< 1

/-- One byte of R111: the byte enters at the top, then eight rounds. -/
def crcByte (crc : Half) (b : Byte) : Half :=
  crcBit (crcBit (crcBit (crcBit (crcBit (crcBit (crcBit (crcBit (crc ^^^ (b.setWidth 16 <<< 8)))))))))

/-- The default `Checksum16`, CRC-16/CCITT-FALSE (R111). -/
def checksum16 (m : List Byte) : Half := m.foldl crcByte 0xFFFF#16

/-- The defaults of the implementation parameters (00_scope.md R6; log 9). The machine for any others is
`coreFor` (Machine/Parameters.lean). -/
def defaultParams : Params where
  checksum := checksum16
  charBits := 10
  payloadCap := 256

/-! ### Byte stuffing (R112, R113) -/

/-- One block: its code byte `len(blk) + 1`, then its data bytes (30_encoding.md R83). -/
def stuffBlock (blk : List Byte) : List Byte := BitVec.ofNat 8 (blk.length + 1) :: blk

/-- The loop of `StuffEncode`, `blk` being the data bytes of the block under construction. -/
def stuffLoop (blk : List Byte) : List Byte → List Byte
  | [] => stuffBlock blk
  | b :: d =>
    if b = 0#8 then stuffBlock blk ++ stuffLoop [] d
    else if (blk ++ [b]).length = 254 then stuffBlock (blk ++ [b]) ++ stuffLoop [] d
    else stuffLoop (blk ++ [b]) d

/-- `StuffEncode` (R112). The final block is always emitted. -/
def stuffEncode (d : List Byte) : List Byte := stuffLoop [] d

/-- The loop of `StuffDecode` on the bytes not read yet; each round reads one block, so `fuel` rounds are enough
for `fuel` bytes (DEDUCED, log 13). The three `none` cases are, in order, the delimiter as a code byte, the truncated block
and the delimiter among data bytes. -/
def unstuffLoop : Nat → List Byte → Option (List Byte)
  | _, [] => some []
  | 0, _ :: _ => none
  | fuel + 1, c :: s =>
    if c = 0#8 then none
    else if s.length < c.toNat - 1 then none
    else if 0#8 ∈ s.take (c.toNat - 1) then none
    else
      match unstuffLoop fuel (s.drop (c.toNat - 1)) with
      | none => none
      | some out =>
        if c ≠ 0xFF#8 ∧ s.drop (c.toNat - 1) ≠ [] then some (s.take (c.toNat - 1) ++ 0#8 :: out)
        else some (s.take (c.toNat - 1) ++ out)

/-- `StuffDecode` (R113); `none` is `MalformedFrame`. -/
def stuffDecode (s : List Byte) : Option (List Byte) := unstuffLoop s.length s

/-! ### Frames (R116, R117) -/

/-- A decoded frame (30_encoding.md R86); its checksum has been compared and is not kept. -/
structure Frame where
  /-- the destination address -/
  destination : Byte
  /-- the source address -/
  source : Byte
  /-- the opaque payload -/
  payload : List Byte
  deriving DecidableEq, Repr

/-- What `Decode` returns (R117). -/
inductive DecodeResult
  /-- a frame -/
  | frame (f : Frame)
  /-- the recomputed checksum differs from the trailing one -/
  | checksumMismatch
  /-- the stuffing or the decoded length is wrong -/
  | malformedFrame
  deriving DecidableEq, Repr

/-- The checksum bytes of a value, most significant byte first (20_memory.md R64). -/
def checksumBytes (chk : Half) : List Byte := [chk.extractLsb' 8 8, chk.extractLsb' 0 8]

/-- The raw frame of a frame (30_encoding.md R81). -/
def rawFrame (checksum : List Byte → Half) (dst src : Byte) (payload : List Byte) : List Byte :=
  dst :: src :: payload ++ checksumBytes (checksum (dst :: src :: payload))

/-- `Encode(destination, source, payload)` (R116); `none` is `PayloadTooLarge`. -/
def encodeFrame (checksum : List Byte → Half) (maxPayload : Half) (dst src : Byte) (payload : List Byte) :
    Option (List Byte) :=
  if maxPayload.toNat < payload.length then none
  else some (stuffEncode (rawFrame checksum dst src payload) ++ [delim])

/-- Checks 2 to 4 of `Decode` (R117), on the unstuffed bytes. -/
def decodeRaw (checksum : List Byte → Half) (maxPayload : Half) (d : List Byte) : DecodeResult :=
  if d.length < 4 then .malformedFrame
  else if maxPayload.toNat < d.length - 4 then .malformedFrame
  else
    if checksumBytes (checksum (d.take (d.length - 2))) ≠ d.drop (d.length - 2) then .checksumMismatch
    else
      match d.take (d.length - 2) with
      | dst :: src :: payload => .frame ⟨dst, src, payload⟩
      | _ => .malformedFrame

/-- `Decode(S)` (R117): the body of a wire frame, the delimiter removed. -/
def decodeFrame (checksum : List Byte → Half) (maxPayload : Half) (s : List Byte) : DecodeResult :=
  match stuffDecode s with
  | none => .malformedFrame
  | some d => decodeRaw checksum maxPayload d

end Sys2Proof.Machine
end

