-- ==== Sys2Proof/Machine/State.lean ====
section
/-!
DEFINITION. The state of the block: every register and memory of 10_state.md, then the model's own fields, which
hold what the environment has delivered and what the block has given back. The fault and refusal reasons.
-/

namespace Sys2Proof.Machine

/-- The six phases of the media access controller (10_state.md R35; codes 6 and 7 are never produced, so a
model's phase type has six values, 93_implementation_defined.md U13). -/
inductive Phase
  /-- code 0: not running; while running only passed through inside a step (R172) -/
  | idle
  /-- code 1: listening; the inter-frame gap is timed when the timer is armed -/
  | sensingCarrier
  /-- code 2: driving the bus, comparing each echoed byte -/
  | transmitting
  /-- code 3: driving delimiter bytes after a collision -/
  | jamming
  /-- code 4: waiting the random delay -/
  | backingOff
  /-- code 5: accumulating another node's bytes up to a delimiter -/
  | receiving
  deriving DecidableEq, Repr

/-- An output action of the block (30_encoding.md R96, R99). -/
inductive Output
  /-- `enableTransmit(on)` to the bus driver (R262) -/
  | txen (on : Bool)
  /-- `writeByte(b)` to the bus driver (R262) -/
  | write (b : Byte)
  /-- the final result of a send, to the host (R192) -/
  | senddone (status : Byte)
  /-- a received frame, to the host (R201) -/
  | rxdeliver (src : Byte) (len : Half) (payload : List Byte)
  /-- a received frame was dropped, to the trace (R268) -/
  | drop (reason : Byte)
  deriving DecidableEq, Repr

/-- A question to a collaborator, answered within the step that asks (00_scope.md R9). -/
inductive Question
  /-- `ask LINEIDLE()` (R263) -/
  | lineIdle
  /-- `ask RANDOM(range)`, the range as an unbounded integer, 1 to 2^32 when asked (R264) -/
  | random (range : Nat)
  deriving DecidableEq, Repr

/-- A byte memory with 16-bit indices: the cells that hold a value, indices strictly rising. What an unlisted
index reads as is `unlisted` of Machine/Ops.lean: no value (log 7). -/
abbrev Memory := List Host.Cell

/-- Why the machine stops with a fault. Every one is an access or a branch that the spec calls unreachable and
that `Sys2Proof.Inv` (Safety.lean) rules out (log 8); each is safe: the model stops where the block has no defined
effect. -/
inductive Fault
  /-- Raised by `bufRead`: a read of `BUF` at an index not below `BUFLEN`, or of a byte nothing has written
  ("a model that finds one has found a bug in its transcription and shall fault", 20_memory.md R62). Safe. -/
  | bufRead
  /-- Raised by `bufWrite`: a write of `BUF` at an index not below `BUF_CAP` (R62). Safe. -/
  | bufWrite
  /-- Raised by `txPayRead`: a read of a byte of `TXPAY` that no `SEND` has written (10_state.md R45: "never
  read by any rule"). Safe. -/
  | txPayRead
  /-- Raised by `txPayWrite`: a write of `TXPAY` beyond `PAYLOAD_CAP`, an index that does not exist (R45). Safe. -/
  | txPayWrite
  /-- Raised by `beginTransmit`: `Encode` fails with `PayloadTooLarge` inside `BeginTransmit`
  (40_frame_codec.md R116: "unreachable"; 93_implementation_defined.md U25). Safe. -/
  | encodeFailed
  /-- Raised by `byteArrives` and `tickElapses`: a byte while running in `Idle`, or an expiry in `Idle`
  (43_mac.md R177, R178: "unreachable"; U25). Safe. -/
  | idlePhase
  /-- Raised by `enterBackoff`: the backoff range is empty or does not fit 32 bits (44_backoff.md R232:
  "Overflow cannot occur", by validation rules V4 and V5). Safe. -/
  | backoffRange
  deriving DecidableEq, Repr

/-- Why the model does not take a step: the environment broke its contract (93_implementation_defined.md). -/
inductive Refusal
  /-- Raised by `exec` for an operation whose meaning is not written yet; no arm raises it. Safe. -/
  | notModelled (mnemonic : String)
  /-- Raised by `askRandom`: an answer of the entropy source outside `[0, range)`: "An answer outside the
  contract is refused by the model" (60_exceptions.md R264, R259; U7; log 4). Safe: the spec's own refusal. -/
  | randomOutOfRange
  /-- Raised by the fetch: a code byte that 30_encoding.md R96 does not list: "A decoder of traces shall
  reject it" (R101; U15; log 11). Safe: the spec's own refusal. -/
  | reservedCode (c : Byte)
  /-- Raised by the fetch: the delivered bytes end inside a record (R97 gives such bytes no meaning; log 11). Safe. -/
  | truncatedRecord
  /-- Raised by the fetch: a 1-bit operand whose byte is neither 0 nor 1 (R97; log 11). Safe. -/
  | reservedOperand (b : Byte)
  deriving DecidableEq, Repr

/-- The whole state of the block and of its boundary. -/
structure State where
  /-- `BIT_TICKS` (R21) -/
  bitTicks : Word
  /-- `IFG_TICKS` (R22) -/
  ifgTicks : Word
  /-- `JAM_TICKS` (R23) -/
  jamTicks : Word
  /-- `BACKOFF_MIN` (R24) -/
  backoffMin : Word
  /-- `BACKOFF_MAX` (R25) -/
  backoffMax : Word
  /-- `MAX_RETRIES` (R26) -/
  maxRetries : BitVec 5
  /-- `LOCAL_ADDR` (R27) -/
  localAddr : Byte
  /-- `BCAST_ADDR` (R28) -/
  bcastAddr : Byte
  /-- `MAX_PAYLOAD` (R29) -/
  maxPayload : Half
  /-- `CFG_VALID` (R30) -/
  cfgValid : Bool
  /-- `FAULT` (R31) -/
  fault : Bool
  /-- `CFG_ERR` (R32) -/
  cfgErr : BitVec 6
  /-- `PHASE` (R35), the program counter of this hardware -/
  phase : Phase
  /-- `IDX` (R36) -/
  idx : Half
  /-- `SEND_PENDING` (R37) -/
  sendPending : Bool
  /-- `RX_OVF` (R38) -/
  rxOvf : Bool
  /-- `TXEN` (R39) -/
  txen : Bool
  /-- `TIMER` (R41) -/
  timer : Word
  /-- `RETRY` (R42) -/
  retry : BitVec 6
  /-- `TXDST` (R43) -/
  txDst : Byte
  /-- `TXLEN` (R44) -/
  txLen : Half
  /-- `TXPAY` (R45) -/
  txPay : Memory
  /-- `BUF` (R46) -/
  buf : Memory
  /-- `BUFLEN` (R47) -/
  bufLen : Half
  /-- the model's own (log 1): the records the environment has delivered and the block has not handled yet -/
  input : List Byte
  /-- the model's own (log 3): `LINEIDLE` answers supplied ahead of their questions, oldest first -/
  lineIdleAns : List Word
  /-- the model's own (log 3): `RANDOM` answers supplied ahead of their questions, oldest first -/
  randomAns : List Word
  /-- the model's own (log 3): every question asked so far, oldest first; its length counts the draws -/
  asked : List Question
  /-- the model's own (log 5): every output action emitted so far, oldest first -/
  out : List Output
  /-- the model's own (log 6): the last synchronous return value given to the host -/
  ret : Option Word
  deriving DecidableEq, Repr

/-- The machine right after reset: the table of 10_state.md R51, every register 0, `PHASE = Idle`, the contents
of `TXPAY` and `BUF` unspecified (nothing listed, log 7); nothing delivered, asked, emitted or returned. -/
def State.reset : State where
  bitTicks := 0
  ifgTicks := 0
  jamTicks := 0
  backoffMin := 0
  backoffMax := 0
  maxRetries := 0
  localAddr := 0
  bcastAddr := 0
  maxPayload := 0
  cfgValid := false
  fault := false
  cfgErr := 0
  phase := .idle
  idx := 0
  sendPending := false
  rxOvf := false
  txen := false
  timer := 0
  retry := 0
  txDst := 0
  txLen := 0
  txPay := []
  buf := []
  bufLen := 0
  input := []
  lineIdleAns := []
  randomAns := []
  asked := []
  out := []
  ret := none

end Sys2Proof.Machine
end

