-- ==== Sys2Proof/Machine/Flags.lean ====
section
/-!
DEFINITION. The views of the state that are computed, not stored: running, `TIMER_ARMED`, `STATUS`, `RX_LIMIT`,
`CHAR_TICKS`, the `PHASE` codes.
-/

namespace Sys2Proof.Machine

/-- Running: `CFG_VALID = 1` and `FAULT = 0` (00_scope.md R10). -/
def running (s : State) : Bool := s.cfgValid && !s.fault

/-- `TIMER_ARMED` reads as `TIMER != 0` (10_state.md R40). -/
def timerArmed (s : State) : Bool := s.timer != 0#32

/-- The code of a phase (R35). -/
def phaseCode : Phase → BitVec 3
  | .idle => 0
  | .sensingCarrier => 1
  | .transmitting => 2
  | .jamming => 3
  | .backingOff => 4
  | .receiving => 5

/-- A flag at bit `k` of a 32-bit view. -/
def flagBit (b : Bool) (k : Nat) : Word := (BitVec.ofBool b).setWidth 32 <<< k

/-- `STATUS` (R33): `PHASE` in bits 2:0, then the six flags; bits 31:9 are zero. -/
def statusWord (s : State) : Word :=
  (phaseCode s.phase).setWidth 32 ||| flagBit s.sendPending 3 ||| flagBit s.txen 4 |||
    flagBit (timerArmed s) 5 ||| flagBit s.cfgValid 6 ||| flagBit s.fault 7 ||| flagBit s.rxOvf 8

/-- `BUFPOS`: `IDX` in bits 31:16, `BUFLEN` in bits 15:0 (30_encoding.md R98). -/
def bufPos (s : State) : Word := s.idx.setWidth 32 <<< 16 ||| s.bufLen.setWidth 32

/-- `RX_LIMIT`: the longest body that `Receiving` stores (10_state.md R34). -/
def rxLimit (s : State) : Nat := stuffMax (s.maxPayload.toNat + 4)

/-- `CHAR_TICKS`: ticks one byte lasts on the line, without truncation (R34, R153). -/
def charTicks (P : Params) (s : State) : Nat := P.charBits * s.bitTicks.toNat

end Sys2Proof.Machine
end

