-- ==== Sys2Proof/Machine/Ops.lean ====
section
/-!
DEFINITION. The operations every meaning is written over: the two byte memories, outputs and return values,
the timer, the questions to the collaborators, the common ends of a step, and the taking of an error.
-/

namespace Sys2Proof.Machine

/-- The outcome of a step of this machine. -/
abbrev Result := Host.Outcome State Fault Refusal

/-- Go on with the next state, if there is one. -/
def andThen (r : Result) (f : State → Result) : Result :=
  match r with
  | .next s => f s
  | .fault e => .fault e
  | .refused e => .refused e

/-! ### Byte memories (20_memory.md R60, R62) -/

/-- What an index that no cell lists reads as: no value (R45, R46: contents are unspecified until written; log 7). -/
def unlisted : Option Byte := none

/-- Read one byte. -/
def Memory.read (m : Memory) (i : Nat) : Option Byte :=
  match m with
  | [] => unlisted
  | (j, b) :: m => if i = j then some b else Memory.read m i

/-- Write one byte, keeping the indices strictly rising. -/
def Memory.write (m : Memory) (i : Nat) (b : Byte) : Memory :=
  match m with
  | [] => [(i, b)]
  | (j, c) :: m =>
    if i < j then (i, b) :: (j, c) :: m
    else if i = j then (i, b) :: m
    else (j, c) :: Memory.write m i b

/-- Read `n` bytes upward from an index; `none` where one of them holds no value. -/
def Memory.readBytes (m : Memory) (i : Nat) : Nat → Option (List Byte)
  | 0 => some []
  | n + 1 =>
    match Memory.read m i, Memory.readBytes m (i + 1) n with
    | some b, some bs => some (b :: bs)
    | _, _ => none

/-- Write bytes upward from an index, one at a time. -/
def Memory.writeBytes (m : Memory) (i : Nat) : List Byte → Memory
  | [] => m
  | b :: bs => Memory.writeBytes (Memory.write m i b) (i + 1) bs

/-- The canonical form: indices strictly rising. (No cell can equal what an unlisted index reads as, which is
no value.) -/
abbrev Memory.wf (m : Memory) : Prop := m.Pairwise fun c d => c.1 < d.1

/-- `BUF[i]`: defined only below `BUFLEN` (R62). -/
def bufRead (s : State) (i : Nat) : Option Byte := if i < s.bufLen.toNat then Memory.read s.buf i else none

/-- `BUF[0 .. BUFLEN-1]`. -/
def bufBytes (s : State) : Option (List Byte) := Memory.readBytes s.buf 0 s.bufLen.toNat

/-- `BUF[i .. ] <- bs`: defined only below `BUF_CAP` (R62). -/
def bufWrite (P : Params) (i : Nat) (bs : List Byte) (s : State) : Result :=
  if i + bs.length ≤ bufCap P then .next { s with buf := Memory.writeBytes s.buf i bs } else .fault .bufWrite

/-- `TXPAY[0 .. TXLEN-1]` (10_state.md R45). -/
def txPayRead (s : State) : Option (List Byte) := Memory.readBytes s.txPay 0 s.txLen.toNat

/-- `TXPAY[0 .. ] <- bs`: there are `PAYLOAD_CAP` bytes (R45). -/
def txPayWrite (P : Params) (bs : List Byte) (s : State) : Result :=
  if bs.length ≤ P.payloadCap then .next { s with txPay := Memory.writeBytes s.txPay 0 bs }
  else .fault .txPayWrite

/-! ### Outputs and return values (00_scope.md R9) -/

/-- `emit A(args)`: the block performs an output action (30_encoding.md R99). -/
def emit (o : Output) (s : State) : State := { s with out := s.out ++ [o] }

/-- `return v`: the synchronous response of a host command. -/
def returns (v : Word) (s : State) : State := { s with ret := some v }

/-! ### The timer (10_state.md R41) -/

/-- `ArmTimer(d)`: replaces any deadline already running. -/
def armTimer (d : Word) (s : State) : State := { s with timer := d }

/-- `DisarmTimer()`. -/
def disarmTimer (s : State) : State := { s with timer := 0 }

/-! ### Questions to the collaborators (60_exceptions.md R263, R264; log 3)

The answer is the oldest one supplied ahead of the question; where there is none, the record of an answer that
stands directly after the record of the operation whose step asks (30_encoding.md R97); where there is none
either, a free value of Config. -/

/-- `ask LINEIDLE()`: any 32-bit answer is legal (R263). -/
def askLineIdle (s : State) : Word × State :=
  let t := { s with asked := s.asked ++ [.lineIdle] }
  match s.lineIdleAns with
  | q :: qs => (q, { t with lineIdleAns := qs })
  | [] =>
    match decode s.input with
    | .record (.lineidle q) rest => (q, { t with input := rest })
    | _ => (Config.lineIdleDraw s.asked.length, t)

/-- An answer of the entropy source is taken when it is below the range asked (R264). -/
def inRange (range : Nat) (v : Word) (s : State) : Option (Nat × State) :=
  if v.toNat < range then some (v.toNat, s) else none

/-- `ask RANDOM(range)`; `none` is an answer outside `[0, range)`. -/
def askRandom (range : Nat) (s : State) : Option (Nat × State) :=
  let t := { s with asked := s.asked ++ [.random range] }
  match s.randomAns with
  | v :: vs => inRange range v { t with randomAns := vs }
  | [] =>
    match decode s.input with
    | .record (.random v) rest => inRange range v { t with input := rest }
    | _ => some (Config.randomDraw s.asked.length % range, t)

/-! ### The common ends of a step -/

/-- `EnterSensing()` (43_mac.md R176): every entry starts a full window. -/
def enterSensing (s : State) : State := armTimer s.ifgTicks { s with phase := .sensingCarrier }

/-- The registers `EnterIdle` clears before it goes on to listening (R172). -/
def clearSession (s : State) : State :=
  disarmTimer { s with phase := .idle, bufLen := 0, idx := 0, rxOvf := false }

/-- `EnterIdle()` (R172): while running, on to `SensingCarrier` within the same step. -/
def enterIdle (s : State) : State :=
  if running (clearSession s) then enterSensing (clearSession s) else clearSession s

/-- The status code of a success (60_exceptions.md R250). -/
def okCode : Byte := 0x00

/-- `CompleteSend(status)` (R192): report the final result of the pending send. -/
def completeSend (status : Byte) (s : State) : State :=
  enterIdle (emit (.senddone status) { s with sendPending := false, retry := 0 })

/-! ### Taking an error (60_exceptions.md R250, R259, R261) -/

/-- The errors of R250, with the drop reason `NotAddressed` and the answer `Refused`. -/
inductive Error
  /-- a caller error of `SEND` (R251) -/
  | payloadTooLarge
  /-- a received frame whose checksum does not match (R252) -/
  | checksumMismatch
  /-- a received frame whose stuffing or length is wrong, an overflow or an inter-byte time-out (R252) -/
  | malformedFrame
  /-- the pending send has met more than `MAX_RETRIES` collisions (R254) -/
  | collisionRetriesExhausted
  /-- `INIT` found the configuration invalid; the mask of the failed validation rules (R255) -/
  | misconfiguredTiming (mask : BitVec 6)
  /-- a received frame for another node: a drop reason, not an error (R250) -/
  | notAddressed
  /-- a protocol violation by the host (R259) -/
  | refused
  deriving DecidableEq, Repr

/-- The code of an error (R250, 30_encoding.md R100). -/
def errorCode : Error → Byte
  | .payloadTooLarge => 1
  | .checksumMismatch => 2
  | .malformedFrame => 3
  | .collisionRetriesExhausted => 4
  | .misconfiguredTiming _ => 5
  | .notAddressed => 6
  | .refused => 0xFF

/-- Take an error: the report of R250 and the state change of R261. No error saves any state or transfers
control to software, and none suspends anything: there is no return operation (R267). -/
def takeError (e : Error) (s : State) : State :=
  match e with
  | .payloadTooLarge => returns ((errorCode e).setWidth 32) s
  | .refused => returns ((errorCode e).setWidth 32) s
  | .checksumMismatch => enterIdle (emit (.drop (errorCode e)) s)
  | .malformedFrame => enterIdle (emit (.drop (errorCode e)) s)
  | .notAddressed => enterIdle (emit (.drop (errorCode e)) s)
  | .collisionRetriesExhausted => completeSend (errorCode e) s
  | .misconfiguredTiming mask => returns ((errorCode e).setWidth 32) { s with cfgErr := mask, fault := true }

end Sys2Proof.Machine
end

