-- ==== Sys2Proof/Machine/Answers.lean ====
section
/-!
DEFINITION. The meanings of the two oracle answers (60_exceptions.md R263, R264). Inside the step that asks, the
record of an answer is consumed by `askLineIdle` and `askRandom`; delivered as an operation of its own, an
answer is kept, in order, for the question to come ("a model takes the sequence of answers as an input", R264;
log 3).
-/

namespace Sys2Proof.Machine

/-- `LINEIDLE q` (R263): the bus driver supplies an answer. -/
def execLineidle (q : Word) (s : State) : Result := .next { s with lineIdleAns := s.lineIdleAns ++ [q] }

/-- `RANDOM v` (R264): the entropy source supplies an answer; it is compared with the range when it is asked for. -/
def execRandom (v : Word) (s : State) : Result := .next { s with randomAns := s.randomAns ++ [v] }

end Sys2Proof.Machine
end

