-- ==== Sys2Proof/Machine/Addressing.lean ====
section
/-!
DEFINITION. Addressing (41_addressing.md): the one predicate on received frames.
-/

namespace Sys2Proof.Machine

/-- `Accepts(frame)` (R141): the destination is the local address or the broadcast address. The source plays no
part, and no relation between the two registers is assumed (R144). -/
def accepts (s : State) (f : Frame) : Bool := f.destination == s.localAddr || f.destination == s.bcastAddr

end Sys2Proof.Machine
end

