-- ==== Sys2Proof/Machine/Mac.lean ====
section
/-!
DEFINITION. The media access controller (43_mac.md) and its backoff scheduler (44_backoff.md): the procedures
of the six phases and the dispatch of `SEND`, `CANCEL`, `BYTE` and `TICK`, for any implementation parameters.
-/

namespace Sys2Proof.Machine

/-! ### Transmitting and jamming -/

/-- `BeginTransmit()` (R184): the frame is encoded anew from the latched request at every attempt. -/
def beginTransmit (P : Params) (s : State) : Result :=
  match txPayRead s with
  | none => .fault .txPayRead
  | some payload =>
    match encodeFrame P.checksum s.maxPayload s.txDst s.localAddr payload with
    | none => .fault .encodeFailed
    | some w =>
      andThen (bufWrite P 0 w { s with bufLen := BitVec.ofNat 16 w.length, idx := 0 }) fun s =>
        match bufRead s 0 with
        | none => .fault .bufRead
        | some b =>
          .next (armTimer s.ifgTicks
            (emit (.write b) (emit (.txen true) { s with phase := .transmitting, txen := true })))

/-- `EnterJamming()` (R194): `TXEN` stays 1. -/
def enterJamming (s : State) : State :=
  emit (.write delim) (armTimer s.jamTicks { s with phase := .jamming })

/-- `BYTE b` in `Transmitting` (R188): the echo of the byte last written. -/
def echoByte (b : Byte) (s : State) : Result :=
  match bufRead s s.idx.toNat with
  | none => .fault .bufRead
  | some expected =>
    if b = expected then
      let s := { s with idx := s.idx + 1 }
      if s.idx = s.bufLen then
        .next (completeSend okCode (emit (.txen false) { s with txen := false }))
      else
        match bufRead s s.idx.toNat with
        | none => .fault .bufRead
        | some b => .next (armTimer s.ifgTicks (emit (.write b) s))
    else .next (enterJamming s)

/-- `BYTE b` in `Jamming` (R195): the next jam byte, whatever `b` is. -/
def jamByte (s : State) : State := emit (.write delim) s

/-! ### Receiving -/

/-- `EnterReceiving()` (R203). -/
def enterReceiving (s : State) : State :=
  armTimer s.ifgTicks { s with phase := .receiving, bufLen := 0, rxOvf := false }

/-- `RxStore(b)` (R200): a body byte, kept up to `RX_LIMIT`. -/
def rxStore (P : Params) (b : Byte) (s : State) : Result :=
  if s.bufLen.toNat < rxLimit s then
    andThen (bufWrite P s.bufLen.toNat [b] s) fun s =>
      .next (armTimer s.ifgTicks { s with bufLen := s.bufLen + 1 })
  else .next (armTimer s.ifgTicks { s with rxOvf := true })

/-- The end of a received body (R201): decode, filter, deliver or drop. -/
def deliver (s : State) (r : DecodeResult) : State :=
  match r with
  | .frame f =>
    if accepts s f then
      enterIdle (emit (.rxdeliver f.source (BitVec.ofNat 16 f.payload.length) f.payload) s)
    else takeError .notAddressed s
  | .checksumMismatch => takeError .checksumMismatch s
  | .malformedFrame => takeError .malformedFrame s

/-- `RxComplete()` (R201), at the delimiter. -/
def rxComplete (P : Params) (s : State) : Result :=
  if s.rxOvf then .next (takeError .malformedFrame s)
  else
    match bufBytes s with
    | none => .fault .bufRead
    | some body => .next (deliver s (decodeFrame P.checksum s.maxPayload body))

/-- `RxByte(b)` (R199). -/
def rxByte (P : Params) (b : Byte) (s : State) : Result :=
  if b = delim then rxComplete P s else rxStore P b s

/-! ### Backoff (44_backoff.md R231 to R235) -/

/-- `lo`: the lower end of the delay range at retry count `RETRY` (R232), an unbounded integer. -/
def backoffLo (s : State) : Nat := s.backoffMin.toNat * 2 ^ s.retry.toNat

/-- `hi`: the upper end of the delay range (R232). -/
def backoffHi (s : State) : Nat := s.backoffMax.toNat * 2 ^ s.retry.toNat

/-- What follows the draw (R231): the counter, the retry limit (R234), the wait (R235). -/
def backoffAfterDraw (delay : Nat) (s : State) : State :=
  let s := { s with retry := s.retry + 1 }
  if s.maxRetries.toNat < s.retry.toNat then takeError .collisionRetriesExhausted s
  else if delay = 0 then enterSensing { s with phase := .backingOff }
  else armTimer (BitVec.ofNat 32 delay) { s with phase := .backingOff }

/-- `EnterBackoff()` (R231): exactly one consultation of the entropy source. -/
def enterBackoff (s : State) : Result :=
  if backoffLo s ≤ backoffHi s ∧ backoffHi s < 2 ^ 32 then
    match askRandom (backoffHi s - backoffLo s + 1) s with
    | none => .refused .randomOutOfRange
    | some (x, t) => .next (backoffAfterDraw (backoffLo s + x) t)
  else .fault .backoffRange

/-! ### Timer expiry, phase by phase -/

/-- Expiry in `SensingCarrier` (R186): the window has run out with no byte. -/
def sensingExpiry (P : Params) (s : State) : Result :=
  match askLineIdle s with
  | (q, s) =>
    if q.toNat < s.ifgTicks.toNat then .next (enterReceiving s)
    else if s.sendPending then beginTransmit P s
    else .next s

/-- Expiry in `Jamming` (R196). -/
def jammingExpiry (s : State) : Result := enterBackoff (emit (.txen false) { s with txen := false })

/-- The expiry rule of the current phase (R178). -/
def expiry (P : Params) (s : State) : Result :=
  match s.phase with
  | .sensingCarrier => sensingExpiry P s
  | .transmitting => .next (enterJamming s)
  | .jamming => jammingExpiry s
  | .backingOff => .next (enterSensing s)
  | .receiving => .next (takeError .malformedFrame s)
  | .idle => .fault .idlePhase

/-! ### The four operations -/

/-- `SEND dst, len, payload` (R174): refused, then too large, then latched (R260). -/
def requestSend (P : Params) (dst : Byte) (len : Half) (payload : List Byte) (s : State) : Result :=
  if !running s then .next (takeError .refused s)
  else if s.sendPending then .next (takeError .refused s)
  else if s.maxPayload.toNat < len.toNat then .next (takeError .payloadTooLarge s)
  else
    andThen (txPayWrite P payload { s with txDst := dst, txLen := len, sendPending := true, retry := 0 }) fun s =>
      .next (returns (okCode.setWidth 32)
        (if s.phase = .sensingCarrier ∧ s.timer = 0#32 then armTimer s.ifgTicks s else s))

/-- `CANCEL` (R175): only in `Idle` or `SensingCarrier`; the timer is left as it is. -/
def cancelSend (s : State) : State :=
  if s.sendPending ∧ (s.phase = .idle ∨ s.phase = .sensingCarrier) then
    returns 1 { s with sendPending := false, retry := 0 }
  else returns 0 s

/-- `BYTE b` (R177): dropped when not running, else the rule of the phase. -/
def byteArrives (P : Params) (b : Byte) (s : State) : Result :=
  if !running s then .next s
  else
    match s.phase with
    | .sensingCarrier => rxByte P b (enterReceiving s)
    | .transmitting => echoByte b s
    | .jamming => .next (jamByte s)
    | .backingOff => .next s
    | .receiving => rxByte P b s
    | .idle => .fault .idlePhase

/-- `TICK` (R178): nothing while nothing is timed; the expiry rule in the step of the decrement that reaches 0. -/
def tickElapses (P : Params) (s : State) : Result :=
  if s.timer = 0#32 then .next s
  else if s.timer - 1 = 0#32 then expiry P { s with timer := s.timer - 1 }
  else .next { s with timer := s.timer - 1 }

end Sys2Proof.Machine
end

