-- ==== Sys2Proof/Machine/Events.lean ====
section
/-!
DEFINITION. The meanings of the two events of the environment (43_mac.md R177, R178), with the default
parameters (log 9).
-/

namespace Sys2Proof.Machine

/-- `BYTE b` (R177). -/
def execByte (b : Byte) (s : State) : Result := byteArrives defaultParams b s

/-- `TICK` (R178). -/
def execTick (s : State) : Result := tickElapses defaultParams s

end Sys2Proof.Machine
end

