-- ==== Sys2Proof/Machine/Operands.lean ====
section
/-!
DEFINITION. The register index space of `CFGWR` and `RDREG` (30_encoding.md R98).
-/

namespace Sys2Proof.Machine

/-- The value that `RDREG` gives for an index, zero-extended to 32 bits; 0 for a reserved index (R98). -/
def readReg (idx : Byte) (s : State) : Word :=
  match idx.toNat with
  | 0 => s.bitTicks
  | 1 => s.ifgTicks
  | 2 => s.jamTicks
  | 3 => s.backoffMin
  | 4 => s.backoffMax
  | 5 => s.maxRetries.setWidth 32
  | 6 => s.localAddr.setWidth 32
  | 7 => s.bcastAddr.setWidth 32
  | 8 => s.maxPayload.setWidth 32
  | 9 => statusWord s
  | 10 => s.retry.setWidth 32
  | 11 => s.cfgErr.setWidth 32
  | 12 => s.timer
  | 13 => bufPos s
  | _ => 0

/-- Store a value in the configuration register of an index, truncated to the register's width; the read-only
and reserved indices are ignored (R98, 10_state.md R20). -/
def writeReg (idx : Byte) (val : Word) (s : State) : State :=
  match idx.toNat with
  | 0 => { s with bitTicks := val }
  | 1 => { s with ifgTicks := val }
  | 2 => { s with jamTicks := val }
  | 3 => { s with backoffMin := val }
  | 4 => { s with backoffMax := val }
  | 5 => { s with maxRetries := val.setWidth 5 }
  | 6 => { s with localAddr := val.setWidth 8 }
  | 7 => { s with bcastAddr := val.setWidth 8 }
  | 8 => { s with maxPayload := val.setWidth 16 }
  | _ => s

end Sys2Proof.Machine
end

