-- ==== Sys2Proof/Machine/Timing.lean ====
section
/-!
DEFINITION. Timing configuration (42_timing_config.md) and reset (70_reset_and_hazards.md): validation, and what
`RESET`, `CFGWR`, `RDREG` and `INIT` do, for any implementation parameters.
-/

namespace Sys2Proof.Machine

/-- V1: a bit lasts at least one tick (R153). -/
def rulePassesV1 (s : State) : Bool := decide (1 ≤ s.bitTicks.toNat)

/-- V2: the inter-frame gap is at least two byte times. -/
def rulePassesV2 (P : Params) (s : State) : Bool := decide (2 * charTicks P s ≤ s.ifgTicks.toNat)

/-- V3: the jam lasts at least one byte time. -/
def rulePassesV3 (P : Params) (s : State) : Bool := decide (charTicks P s ≤ s.jamTicks.toNat)

/-- V4: the backoff range is not empty. -/
def rulePassesV4 (s : State) : Bool := decide (s.backoffMin.toNat ≤ s.backoffMax.toNat)

/-- V5: the widest scaled backoff delay fits the timer. -/
def rulePassesV5 (s : State) : Bool := decide (s.backoffMax.toNat * 2 ^ s.maxRetries.toNat ≤ 2 ^ 32 - 1)

/-- V6: the largest wire frame fits `BUF`. -/
def rulePassesV6 (P : Params) (s : State) : Bool := decide (s.maxPayload.toNat ≤ P.payloadCap)

/-- A failed rule at bit `k` of the mask. -/
def failBit (passes : Bool) (k : Nat) : BitVec 6 := (BitVec.ofBool (!passes)).setWidth 6 <<< k

/-- `ValidateConfig()` (R153): bit `k-1` is 1 when rule `Vk` fails. -/
def validateConfig (P : Params) (s : State) : BitVec 6 :=
  failBit (rulePassesV1 s) 0 ||| failBit (rulePassesV2 P s) 1 ||| failBit (rulePassesV3 P s) 2 |||
    failBit (rulePassesV4 s) 3 ||| failBit (rulePassesV5 s) 4 ||| failBit (rulePassesV6 P s) 5

/-- Every register at its reset value (10_state.md R51); what the environment has delivered and what the block
has asked, emitted and returned is no register and stays (log 6). -/
def resetRegisters (s : State) : State :=
  { State.reset with
    input := s.input, lineIdleAns := s.lineIdleAns, randomAns := s.randomAns, asked := s.asked, out := s.out,
    ret := s.ret }

/-- `RESET()` (R290): release the bus if the block was driving it, then every register to its reset value. -/
def resetBlock (s : State) : State := resetRegisters (if s.txen then emit (.txen false) s else s)

/-- `CFGWR(idx, val)` (R150): ignored while locked. -/
def writeConfig (idx : Byte) (val : Word) (s : State) : State :=
  if s.cfgValid || s.fault then s else writeReg idx val s

/-- `RDREG(idx)` (R151). -/
def readConfig (idx : Byte) (s : State) : State := returns (readReg idx s) s

/-- `INIT()` (R152). -/
def initialise (P : Params) (s : State) : State :=
  if s.cfgValid || s.fault then takeError .refused s
  else if validateConfig P s ≠ 0#6 then takeError (.misconfiguredTiming (validateConfig P s)) s
  else returns (okCode.setWidth 32) (enterIdle { s with cfgValid := true })

end Sys2Proof.Machine
end

