-- ==== Sys2Proof/Machine/HostCommands.lean ====
section
/-!
DEFINITION. The meanings of the six host commands (30_encoding.md R96), with the default parameters (log 9).
-/

namespace Sys2Proof.Machine

/-- `RESET` (70_reset_and_hazards.md R290). -/
def execReset (s : State) : Result := .next (resetBlock s)

/-- `CFGWR idx, val` (42_timing_config.md R150). -/
def execCfgwr (idx : Byte) (val : Word) (s : State) : Result := .next (writeConfig idx val s)

/-- `RDREG idx` (R151). -/
def execRdreg (idx : Byte) (s : State) : Result := .next (readConfig idx s)

/-- `INIT` (R152). -/
def execInit (s : State) : Result := .next (initialise defaultParams s)

/-- `SEND dst, len, payload` (43_mac.md R174). -/
def execSend (dst : Byte) (len : Half) (payload : List Byte) (s : State) : Result :=
  requestSend defaultParams dst len payload s

/-- `CANCEL` (R175). -/
def execCancel (s : State) : Result := .next (cancelSend s)

end Sys2Proof.Machine
end

