-- ==== Sys2Proof/Machine/Outputs.lean ====
section
/-!
DEFINITION. The meanings of the five output actions (30_encoding.md R96, R99): the action is performed toward
its collaborator. The procedures that emit them write the registers beside them (00_scope.md R9: `TXEN <- 1` and
`emit TXEN(1)` are two primitives); the action itself writes none (log 5).
-/

namespace Sys2Proof.Machine

/-- `TXEN on`: `enableTransmit(on)` (60_exceptions.md R262). -/
def execTxen (on : Bool) (s : State) : Result := .next (emit (.txen on) s)

/-- `WRITE b`: `writeByte(b)` (R262). -/
def execWrite (b : Byte) (s : State) : Result := .next (emit (.write b) s)

/-- `SENDDONE status`: the final result of a send, to the host (43_mac.md R192). -/
def execSenddone (status : Byte) (s : State) : Result := .next (emit (.senddone status) s)

/-- `RXDELIVER src, len, payload`: a received frame, to the host (43_mac.md R201, 60_exceptions.md R266). -/
def execRxdeliver (src : Byte) (len : Half) (payload : List Byte) (s : State) : Result :=
  .next (emit (.rxdeliver src len payload) s)

/-- `DROP reason`: the trace output (60_exceptions.md R268). -/
def execDrop (reason : Byte) (s : State) : Result := .next (emit (.drop reason) s)

end Sys2Proof.Machine
end

