-- ==== Sys2Proof/Machine/Dispatch.lean ====
section
/-! DEFINITION. The meaning of every operation: one arm per constructor of `Instr`. -/

namespace Sys2Proof.Machine

def exec (i : Instr) (s : State) : Host.Outcome State Fault Refusal :=
  match i with
  | .reset => Sys2Proof.Machine.execReset s
  | .cfgwr idx val => Sys2Proof.Machine.execCfgwr idx val s
  | .rdreg idx => Sys2Proof.Machine.execRdreg idx s
  | .init => Sys2Proof.Machine.execInit s
  | .send dst len payload => Sys2Proof.Machine.execSend dst len payload s
  | .cancel => Sys2Proof.Machine.execCancel s
  | .byte b => Sys2Proof.Machine.execByte b s
  | .tick => Sys2Proof.Machine.execTick s
  | .lineidle q => Sys2Proof.Machine.execLineidle q s
  | .random v => Sys2Proof.Machine.execRandom v s
  | .txen on => Sys2Proof.Machine.execTxen on s
  | .write b => Sys2Proof.Machine.execWrite b s
  | .senddone status => Sys2Proof.Machine.execSenddone status s
  | .rxdeliver src len payload => Sys2Proof.Machine.execRxdeliver src len payload s
  | .drop reason => Sys2Proof.Machine.execDrop reason s

end Sys2Proof.Machine
end

