-- ==== Sys2Proof/Machine/Fetch.lean ====
section
/-!
DEFINITION. How the next operation reaches the block: the front record of `input` (20_memory.md R69; log 1). The
block fetches no instructions (R72); this is the environment's order of delivery.
-/

namespace Sys2Proof.Machine

/-- What the fetch finds. -/
inductive Fetched
  /-- an operation, with the state whose `input` starts after its record -/
  | run (i : Instr) (s : State)
  /-- nothing delivered: the block has no spontaneous step (43_mac.md R170) -/
  | wait
  /-- bytes that are no record -/
  | refuse (r : Refusal)

/-- Take the front record of `input`. -/
def fetch (s : State) : Fetched :=
  match decode s.input with
  | .record i rest => .run i { s with input := rest }
  | .empty => .wait
  | .reservedCode c => .refuse (.reservedCode c)
  | .truncated => .refuse .truncatedRecord
  | .reservedOperand b => .refuse (.reservedOperand b)

/-- Deliver the record of a table row (zeros where the row gives no bits) as the next operation. -/
def deliverTableWord (s : State) (nbits w : Nat) : State := { s with input := tableRecord nbits w ++ s.input }

end Sys2Proof.Machine
end

