-- ==== Sys2Proof/Machine/Trace.lean ====
section
/-!
DEFINITION. Traces (30_encoding.md R97): what a trace writes for one operation, and how a step passes over what a
trace says the step itself did. The record of the operation stands first, then its synchronous return value, the
answer to the question of its step, and the output records of the step in emission order. Answers and outputs have no
other place in a trace.
-/

namespace Sys2Proof.Machine

/-- The output actions that a next state has beyond those of the state before it. -/
def emitted (s t : State) : List Output := t.out.drop s.out.length

/-- The operation of R96 that an output action is. -/
def outputInstr : Output → Instr
  | .txen on => .txen on
  | .write b => .write b
  | .senddone status => .senddone status
  | .rxdeliver src len payload => .rxdeliver src len payload
  | .drop reason => .drop reason

/-- The records of output actions, in emission order (R97). -/
def outputRecords (os : List Output) : List Byte := os.flatMap fun o => encode (outputInstr o)

/-- The synchronous return value of a host command, as a trace writes it after the record (R97): 32 bits for `RDREG`,
one byte for the status of `INIT` and `SEND` (R96; "returns 00" in 95_test_vectors.md P1) and for the bit of `CANCEL`
(P4). The other operations return nothing. -/
def returnBytes (i : Instr) (t : State) : List Byte :=
  match i, t.ret with
  | .rdreg _, some v => wordBytes v
  | .init, some v => [v.setWidth 8]
  | .send _ _ _, some v => [v.setWidth 8]
  | .cancel, some v => [v.setWidth 8]
  | _, _ => []

/-- The record of the answer to the question that the step from `s` to `t` asked; nothing where it asked none. -/
def answerRecord (s t : State) : List Byte :=
  match t.asked.drop s.asked.length with
  | [.lineIdle] => encode (.lineidle (askLineIdle s).1)
  | [.random range] =>
    match askRandom range s with
    | some (x, _) => encode (.random (BitVec.ofNat 32 x))
    | none => []
  | _ => []

/-- What a trace writes for the operation `i` that leads from `s` to `t` (R97). An input operation has its record, its
return value, the answer to the question of its step and the outputs of its step. An oracle answer supplied ahead
(log 3) writes nothing where it is supplied: its record stands after the operation whose step asks. An output action
delivered on its own (log 5) writes its one record, as the output that it emits. -/
def traceEntry (i : Instr) (s t : State) : List Byte :=
  match i.dir with
  | .toBlock => encode i ++ returnBytes i t ++ answerRecord s t ++ outputRecords (emitted s t)
  | .answer => []
  | .fromBlock => outputRecords (emitted s t)

/-- Pass over bytes that stand first in `input`; where others stand there, `input` stays as it is. -/
def skipBytes (bytes : List Byte) (t : State) : State :=
  match bytes.isPrefixOf? t.input with
  | some rest => { t with input := rest }
  | none => t

/-- Output records that stand directly after the record of an operation (and of its answer) are the outputs of that
operation's own step (R97): they report what the step from `s` to `t` has just emitted and are no operations of
their own. Where other records stand there, none is passed over (DESIGN CHOICE, log 18). -/
def skipOutputs (i : Instr) (s t : State) : State :=
  if i.dir = .toBlock then skipBytes (outputRecords (emitted s t)) t else t

/-- The same in a trace, where the return value of a host command stands before them (R97). In `input` it does not:
there the bytes after the record of a command are the next operation (DESIGN CHOICE, log 18). -/
def skipReports (i : Instr) (s t : State) : State :=
  if i.dir = .toBlock then skipBytes (returnBytes i t ++ outputRecords (emitted s t)) t else t

end Sys2Proof.Machine
end

