-- ==== Sys2Proof/Machine/Step.lean ====
section
/-! DEFINITION. One step: the next delivered operation, handled whole (20_memory.md R67, R69; 43_mac.md R170). -/

namespace Sys2Proof.Machine

/-- One atomic step. Output records that report what it emitted are passed over (30_encoding.md R97). With
nothing delivered the block stays as it is: it has no spontaneous step (R170). -/
def step (s : State) : Host.Outcome State Fault Refusal :=
  match fetch s with
  | .run i u => andThen (exec i u) fun t => .next (skipOutputs i u t)
  | .wait => .next s
  | .refuse r => .refused r

/-- `s` with a table row's record delivered as the next operation. -/
def State.withFetchWord (s : State) (nbits w : Nat) : State := deliverTableWord s nbits w

end Sys2Proof.Machine
end

