-- ==== Sys2Proof/Machine/Parameters.lean ====
section
/-!
DEFINITION. The machine of every deployment: the meanings, the step and the core with the open parameters
`Checksum16`, `CHAR_BITS` and `PAYLOAD_CAP` as an argument of the model (00_scope.md R6; 92_eei_decisions.md, "Open
parameters, collected"; 93_implementation_defined.md U1, U24; log 9). `exec`, `step` and `Sys2Proof.core` are this
machine at the defaults of the spec.
-/

namespace Sys2Proof.Machine

/-- The meaning of every operation under the parameters `P`. Four operations read them: `INIT` (validation),
`SEND` (the size of `TXPAY`), `BYTE` and `TICK` (the checksum, the size of `BUF`); the others read none. -/
def execFor (P : Params) (i : Instr) (s : State) : Result :=
  match i with
  | .reset => execReset s
  | .cfgwr idx val => execCfgwr idx val s
  | .rdreg idx => execRdreg idx s
  | .init => .next (initialise P s)
  | .send dst len payload => requestSend P dst len payload s
  | .cancel => execCancel s
  | .byte b => byteArrives P b s
  | .tick => tickElapses P s
  | .lineidle q => execLineidle q s
  | .random v => execRandom v s
  | .txen on => execTxen on s
  | .write b => execWrite b s
  | .senddone status => execSenddone status s
  | .rxdeliver src len payload => execRxdeliver src len payload s
  | .drop reason => execDrop reason s

/-- One atomic step under the parameters `P`: the next delivered operation, handled whole (20_memory.md R67, R69;
43_mac.md R170). -/
def stepFor (P : Params) (s : State) : Result :=
  match fetch s with
  | .run i u => andThen (execFor P i u) fun t => .next (skipOutputs i u t)
  | .wait => .next s
  | .refuse r => .refused r

/-- One step along a trace that stands in `input`: the record of an operation, with all that the trace says its step
returned, was answered and emitted (30_encoding.md R97). -/
def traceStepFor (P : Params) (s : State) : Result :=
  match fetch s with
  | .run i u => andThen (execFor P i u) fun t => .next (skipReports i u t)
  | .wait => .next s
  | .refuse r => .refused r

/-- The machine of the deployment with the parameters `P`. The reset state reads none (10_state.md R51). -/
def coreFor (P : Params) : Host.Core :=
  { State := State, Fault := Fault, Refusal := Refusal, step := stepFor P, reset := State.reset }

end Sys2Proof.Machine
end

