-- ==== Sys2Proof/Machine/Bus.lean ====
section
/-!
DEFINITION. The reference bus (60_exceptions.md R270): several blocks coupled only by the bytes on one line. It
stands beside the core: one block never sees it (00_scope.md R11; log 12). All nodes have the same parameters `P`.
-/

namespace Sys2Proof.Machine

/-- A write that joined a character slot: which node, which byte, when. -/
structure SlotWrite where
  /-- the node, counted from 0 (the spec counts from 1) -/
  node : Nat
  /-- the byte written -/
  byte : Byte
  /-- the global time at which it joined -/
  time : Nat
  deriving DecidableEq, Repr

/-- An open character slot: its opening time `t0` and the writes that joined it. -/
structure Slot where
  /-- `t0` -/
  openedAt : Nat
  /-- the joined writes -/
  writes : List SlotWrite
  deriving DecidableEq, Repr

/-- The bus and its nodes, in ascending order. -/
structure Bus where
  /-- the blocks, with nothing in common but the line -/
  nodes : List State
  /-- the global time `t`, in ticks since the start -/
  time : Nat
  /-- the open slot, if any -/
  slot : Option Slot
  /-- `t_end`: the time the last slot closed, 0 at the start -/
  lastEnd : Nat
  deriving DecidableEq, Repr

/-- The bus at its start, with given blocks. -/
def busStart (nodes : List State) : Bus := { nodes := nodes, time := 0, slot := none, lastEnd := 0 }

/-- The answer to a `LINEIDLE` question at the present time: 0 while a character is on the line, else the time
since the last one ended, saturated to 32 bits (R263, R270; log 15). DESIGN CHOICE (log 17): in the tick at which an open
slot ends, before it is closed, R270's formula counts from the end of the slot before it, where R263 and R271 count
from the last character on the line, which ends now; the model follows the formula of R270. -/
def busLineIdle (charTime : Nat) (b : Bus) : Word :=
  match b.slot with
  | some slot =>
    if b.time < slot.openedAt + charTime then 0 else BitVec.ofNat 32 (min (b.time - b.lastEnd) (2 ^ 32 - 1))
  | none => BitVec.ofNat 32 (min (b.time - b.lastEnd) (2 ^ 32 - 1))

/-- One operation of one node, and the bytes it writes: `none` when the node takes no step, or when it writes
with `TXEN = 0` (the check of R270). -/
def busNode (P : Params) (i : Instr) (s : State) : Option (State × List Byte) :=
  match execFor P i s with
  | .next t =>
    let written := (t.out.drop s.out.length).filterMap fun o => match o with | .write b => some b | _ => none
    if written ≠ [] ∧ t.txen = false then none else some (t, written)
  | _ => none

/-- One operation of every node in ascending order, from node number `n`, with the writes they make at `time`. -/
def busEach (f : State → Option (State × List Byte)) (time : Nat) :
    Nat → List State → Option (List State × List SlotWrite)
  | _, [] => some ([], [])
  | n, s :: ss =>
    match f s with
    | none => none
    | some (t, written) =>
      match busEach f time (n + 1) ss with
      | none => none
      | some (ts, ws) => some (t :: ts, written.map (fun b => ⟨n, b, time⟩) ++ ws)

/-- `TICK` to a node, the bus answering a `LINEIDLE` question with `q`; an answer not asked for is withdrawn. A
`RANDOM` question is answered from the node's own answer sequence, `randomAns` (R270). DESIGN CHOICE (log 12), the
spec being silent on a node whose sequence is empty: the node takes its answer as a block alone does (log 3), the
answer record next in its `input`, else `Config.randomDraw` of the node's own question count; that is one function
for all nodes, so two such nodes with equal counts draw the same number. -/
def busTickNode (P : Params) (q : Word) (s : State) : Option (State × List Byte) :=
  match busNode P .tick { s with lineIdleAns := [q] } with
  | some (t, written) => some ({ t with lineIdleAns := s.lineIdleAns }, written)
  | none => none

/-- The byte a closing slot delivers: the common byte of writes that all joined at its opening, else a byte of
the harness that differs from every byte written into it. -/
def slotByte (harness : Byte) (slot : Slot) : Option Byte :=
  match slot.writes with
  | [] => none
  | w :: ws =>
    if (w :: ws).all fun v => v.byte == w.byte && v.time == slot.openedAt then some w.byte
    else if (w :: ws).all fun v => v.byte != harness then some harness
    else none

/-- Phase 2: close the slot whose character time is over, and deliver its byte to every node. -/
def busDeliver (P : Params) (charTime : Nat) (harness : Byte) (b : Bus) : Option (Bus × List SlotWrite) :=
  match b.slot with
  | none => some (b, [])
  | some slot =>
    if slot.openedAt + charTime = b.time then
      match slotByte harness slot with
      | none => none
      | some d =>
        match busEach (busNode P (.byte d)) b.time 0 b.nodes with
        | none => none
        | some (nodes, ws) => some ({ b with nodes := nodes, slot := none, lastEnd := b.time }, ws)
    else some (b, [])

/-- The host commands scheduled for the present time, each with the number of its node. -/
def busCommands (P : Params) (time : Nat) : List (Nat × Instr) → List State → Option (List State × List SlotWrite)
  | [], ss => some (ss, [])
  | (n, i) :: cmds, ss =>
    match ss[n]? with
    | none => none
    | some s =>
      match busNode P i s with
      | none => none
      | some (t, written) =>
        match busCommands P time cmds (ss.set n t) with
        | none => none
        | some (ts, ws) => some (ts, written.map (fun b => ⟨n, b, time⟩) ++ ws)

/-- Phase 3: the writes of this tick join the open slot; if none is open, one opens now. -/
def busJoin (ws : List SlotWrite) (b : Bus) : Bus :=
  match ws, b.slot with
  | [], _ => b
  | _ :: _, some slot => { b with slot := some { slot with writes := slot.writes ++ ws } }
  | _ :: _, none => { b with slot := some ⟨b.time, ws⟩ }

/-- One global tick of the reference bus (R270): ticks, then delivery and host commands, then the new writes.
`charTime` is `CHAR_TICKS`, the same for all nodes, `harness` the corrupted byte the harness would choose. -/
def busTick (P : Params) (charTime : Nat) (harness : Byte) (cmds : List (Nat × Instr)) (b : Bus) : Option Bus :=
  let b := { b with time := b.time + 1 }
  match busEach (busTickNode P (busLineIdle charTime b)) b.time 0 b.nodes with
  | none => none
  | some (nodes, ws1) =>
    match busDeliver P charTime harness { b with nodes := nodes } with
    | none => none
    | some (b, ws2) =>
      match busCommands P b.time cmds b.nodes with
      | none => none
      | some (nodes, ws3) => some (busJoin (ws1 ++ ws2 ++ ws3) { b with nodes := nodes })

end Sys2Proof.Machine
end

