-- ==== Sys2Proof/Machine/Script.lean ====
section
/-!
DEFINITION. Scripts: sequences of operations, and the pseudo-operations of 30_encoding.md R103 with their
expansions.
-/

namespace Sys2Proof.Machine

/-- Handle the operations of a script one after the other, each in one step (20_memory.md R67, R69). -/
def runScript : List Instr → State → Result
  | [], s => .next s
  | i :: is, s => andThen (exec i s) (runScript is)

/-- `TICK xN`: `N` consecutive `TICK` operations. -/
def scriptTicks (n : Nat) : List Instr := List.replicate n .tick

/-- The trace of a script (R97): the entries of its operations, with the state they lead to. -/
def traceScript (P : Params) : List Instr → State → Host.Outcome (State × List Byte) Fault Refusal
  | [], s => .next (s, [])
  | i :: is, s =>
    match execFor P i s with
    | .next t =>
      match traceScript P is t with
      | .next (u, bytes) => .next (u, traceEntry i s t ++ bytes)
      | .fault e => .fault e
      | .refused e => .refused e
    | .fault e => .fault e
    | .refused e => .refused e

/-- An oracle answer in square brackets on an input line (R102). -/
inductive Bracket
  /-- `[q=280]`: the answer to `LINEIDLE` -/
  | q (q : Word)
  /-- `[rnd=57]`: the answer to `RANDOM` -/
  | rnd (v : Word)
  deriving DecidableEq, Repr

/-- The operation that supplies a bracketed answer (60_exceptions.md R263, R264). -/
def bracketAnswer : Bracket → Instr
  | .q q => .lineidle q
  | .rnd v => .random v

/-- `TICK xN` with oracle answers in brackets (R102, R103): they apply to the ones among the `N` ticks that ask. The
answers are supplied before the ticks and kept for the questions (log 3); one that none of the ticks asks for stays
for a later question (DESIGN CHOICE, log 16). -/
def scriptTicksAnswered (n : Nat) (brackets : List Bracket) : List Instr :=
  brackets.map bracketAnswer ++ scriptTicks n

/-- The operand of the most recent `WRITE` of an output trace. -/
def lastWrite : List Output → Option Byte
  | [] => none
  | o :: os =>
    match lastWrite os, o with
    | some b, _ => some b
    | none, .write b => some b
    | none, _ => none

/-- `ECHO`: `BYTE b` where `b` is the operand of the most recent `WRITE` (R103). DESIGN CHOICE (log 16): before any
`WRITE` has been emitted, where the spec says nothing, it expands to no operation. -/
def scriptEcho (s : State) : List Instr :=
  match lastWrite s.out with
  | some b => [.byte b]
  | none => []

/-- `FRAME(d, s, p)`: one `BYTE` per byte of `Encode(d, s, p)`, delimiter included (R103).
DESIGN CHOICE (log 16): where `Encode` answers `PayloadTooLarge` there is no expansion. -/
def scriptFrame (checksum : List Byte → Half) (maxPayload : Half) (dst src : Byte) (payload : List Byte) :
    Option (List Instr) :=
  (encodeFrame checksum maxPayload dst src payload).map (List.map .byte)

/-- The nine configuration values (10_state.md R20), in the order of the register indices. -/
structure Configuration where
  /-- index 0 -/
  bitTicks : Word
  /-- index 1 -/
  ifgTicks : Word
  /-- index 2 -/
  jamTicks : Word
  /-- index 3 -/
  backoffMin : Word
  /-- index 4 -/
  backoffMax : Word
  /-- index 5 -/
  maxRetries : BitVec 5
  /-- index 6 -/
  localAddr : Byte
  /-- index 7 -/
  bcastAddr : Byte
  /-- index 8 -/
  maxPayload : Half
  deriving DecidableEq, Repr

/-- The names of the configuration registers, as a `CONFIG` lists them (10_state.md R20). -/
inductive ConfigReg
  | bitTicks | ifgTicks | jamTicks | backoffMin | backoffMax | maxRetries | localAddr | bcastAddr | maxPayload
  deriving DecidableEq, Repr

/-- The index of a configuration register (R98). -/
def configIndex : ConfigReg → Byte
  | .bitTicks => 0
  | .ifgTicks => 1
  | .jamTicks => 2
  | .backoffMin => 3
  | .backoffMax => 4
  | .maxRetries => 5
  | .localAddr => 6
  | .bcastAddr => 7
  | .maxPayload => 8

/-- `CONFIG{...}` for any listing: one `CFGWR` per listed register, in the order of the listing (R103). -/
def scriptConfigListed (listed : List (ConfigReg × Word)) : List Instr :=
  listed.map fun r => .cfgwr (configIndex r.1) r.2

/-- `BOOT{...}` for any listing: `RESET`, `CONFIG{...}`, `INIT` (R103, 70_reset_and_hazards.md R293). -/
def scriptBootListed (listed : List (ConfigReg × Word)) : List Instr := .reset :: scriptConfigListed listed ++ [.init]

/-- The listing of a whole configuration, in the order of the register indices. -/
def wholeListing (c : Configuration) : List (ConfigReg × Word) :=
  [(.bitTicks, c.bitTicks), (.ifgTicks, c.ifgTicks), (.jamTicks, c.jamTicks), (.backoffMin, c.backoffMin),
    (.backoffMax, c.backoffMax), (.maxRetries, c.maxRetries.setWidth 32), (.localAddr, c.localAddr.setWidth 32),
    (.bcastAddr, c.bcastAddr.setWidth 32), (.maxPayload, c.maxPayload.setWidth 32)]

/-- `CONFIG{...}` that lists all nine registers. -/
def scriptConfig (c : Configuration) : List Instr := scriptConfigListed (wholeListing c)

/-- `BOOT{...}` with a `CONFIG` that lists all nine registers. -/
def scriptBoot (c : Configuration) : List Instr := scriptBootListed (wholeListing c)

end Sys2Proof.Machine
end

