-- ==== Sys2Proof/Safety.lean ====
section
/-!
DEFINITION. What a good state is: the invariants of 10_state.md R52, with what their proof needs beside them. The
statements about every step are made about states that satisfy `Inv`.
-/

namespace Sys2Proof

open Machine

/-- The wire frame of the pending request: `Encode(TXDST, LOCAL_ADDR, TXPAY[0 .. TXLEN-1])` (R46). -/
def wireFrame (P : Params) (s : State) : Option (List Byte) :=
  match txPayRead s with
  | none => none
  | some payload => encodeFrame P.checksum s.maxPayload s.txDst s.localAddr payload

/-- The phases in which the block drives the bus (R52 item 4). -/
abbrev Driving (p : Phase) : Prop := p = .transmitting ∨ p = .jamming

/-- The invariants of the block (R52). The items without a number are consequences of other rules that the
induction over the steps needs. -/
structure Inv (P : Params) (s : State) : Prop where
  /-- item 1 -/
  modes : ¬(s.cfgValid = true ∧ s.fault = true)
  /-- item 2 -/
  notRunning : running s = false →
    s.phase = .idle ∧ s.txen = false ∧ s.timer = 0 ∧ s.sendPending = false ∧ s.bufLen = 0
  /-- item 3 -/
  runningPhase : running s = true → s.phase ≠ .idle
  /-- item 4 -/
  driving : s.txen = true ↔ Driving s.phase
  /-- item 5 -/
  pendingPhase : Driving s.phase ∨ s.phase = .backingOff → s.sendPending = true
  /-- item 6; in `Idle` the timer is 0 by items 2 and 3 -/
  timed : Driving s.phase ∨ s.phase = .backingOff ∨ s.phase = .receiving → s.timer ≠ 0
  /-- item 7 -/
  transmitting : s.phase = .transmitting → s.idx.toNat < s.bufLen.toNat
  /-- item 7, and R46: `BUF` holds the wire frame of the current attempt -/
  attempt : Driving s.phase ∨ s.phase = .backingOff → ∃ w, wireFrame P s = some w ∧ bufBytes s = some w
  /-- item 8 -/
  receiving : s.phase = .receiving →
    s.bufLen.toNat ≤ rxLimit s ∧ ∃ body, bufBytes s = some body ∧ delim ∉ body
  /-- item 9 -/
  retryBound : s.retry.toNat ≤ s.maxRetries.toNat
  /-- item 9 -/
  retryClear : s.sendPending = false → s.retry = 0
  /-- a locked configuration has passed validation (42_timing_config.md R152, R155) -/
  validated : s.cfgValid = true → validateConfig P s = 0
  /-- `CFG_ERR` records the failed rules of the `INIT` that set `FAULT`, 0 otherwise (10_state.md R32) -/
  cfgErr : s.cfgErr ≠ 0 ↔ s.fault = true
  /-- `RX_OVF` belongs to the frame being received (R38) -/
  overflow : s.rxOvf = true → s.phase = .receiving
  /-- the pending request is whole and not too long (R44, R45) -/
  request : s.sendPending = true →
    s.txLen.toNat ≤ s.maxPayload.toNat ∧ ∃ p, txPayRead s = some p
  /-- the memories keep their canonical form -/
  memories : Memory.wf s.txPay ∧ Memory.wf s.buf

/-- The `LINEIDLE` question of a step that starts in `s` is answered with `q` and leaves `t`: the oldest answer
supplied ahead; with none supplied, the answer record that stands next in `input`; with none there either, a
free value (log 3). -/
def LineIdleAnswered (s : State) (q : Word) (t : State) : Prop :=
  (∃ qs, s.lineIdleAns = q :: qs ∧ t = { s with lineIdleAns := qs, asked := s.asked ++ [.lineIdle] }) ∨
  (s.lineIdleAns = [] ∧ ∃ rest, decode s.input = .record (.lineidle q) rest ∧
    t = { s with input := rest, asked := s.asked ++ [.lineIdle] }) ∨
  (s.lineIdleAns = [] ∧ (∀ v rest, decode s.input ≠ .record (.lineidle v) rest) ∧
    q = Config.lineIdleDraw s.asked.length ∧ t = { s with asked := s.asked ++ [.lineIdle] })

/-- The `RANDOM(range)` question of a step that starts in `s` is answered with `x`, below the range, and leaves
`t`; the sources are those of `LineIdleAnswered`. -/
def RandomAnswered (s : State) (range x : Nat) (t : State) : Prop :=
  (∃ v vs, s.randomAns = v :: vs ∧ x = v.toNat ∧ x < range ∧
    t = { s with randomAns := vs, asked := s.asked ++ [.random range] }) ∨
  (s.randomAns = [] ∧ ∃ v rest, decode s.input = .record (.random v) rest ∧ x = v.toNat ∧ x < range ∧
    t = { s with input := rest, asked := s.asked ++ [.random range] }) ∨
  (s.randomAns = [] ∧ (∀ v rest, decode s.input ≠ .record (.random v) rest) ∧
    x = Config.randomDraw s.asked.length % range ∧ t = { s with asked := s.asked ++ [.random range] })

/-- The entropy source's next answer to a question is `v`, supplied ahead or standing next in `input`. -/
def RandomSupplied (s : State) (v : Word) : Prop :=
  (∃ vs, s.randomAns = v :: vs) ∨ (s.randomAns = [] ∧ ∃ rest, decode s.input = .record (.random v) rest)

/-- The levels of the transmit-enable line along a list of outputs: `none` as soon as a `WRITE` comes with the
line off, or a `TXEN` with the level it already has (R99, R262); else the last level. -/
def lineLevel : Bool → List Output → Option Bool
  | level, [] => some level
  | level, .txen on :: os => if on = level then none else lineLevel on os
  | level, .write _ :: os => if level = true then lineLevel level os else none
  | level, .senddone _ :: os => lineLevel level os
  | level, .rxdeliver _ _ _ :: os => lineLevel level os
  | level, .drop _ :: os => lineLevel level os

/-- How many `SENDDONE` a list of outputs holds. -/
def sendDones : List Output → Nat
  | [] => 0
  | .senddone _ :: os => sendDones os + 1
  | .txen _ :: os => sendDones os
  | .write _ :: os => sendDones os
  | .rxdeliver _ _ _ :: os => sendDones os
  | .drop _ :: os => sendDones os

/-- The index of `BUF` that a `BYTE b` stores to, if it stores one (R180, R199, R200). -/
def storeIndex (s : State) (b : Byte) : Option Nat :=
  if running s = false ∨ b = delim then none
  else
    match s.phase with
    | .sensingCarrier => some 0
    | .receiving => if s.bufLen.toNat < rxLimit s then some s.bufLen.toNat else none
    | _ => none

/-- The phase changes that a `BYTE` may make (43_mac.md R171). -/
def byteMoves : List (Phase × Phase) :=
  [(.sensingCarrier, .receiving), (.transmitting, .sensingCarrier), (.transmitting, .jamming),
    (.receiving, .sensingCarrier)]

/-- The phase changes that a `TICK` may make (R171). -/
def tickMoves : List (Phase × Phase) :=
  [(.sensingCarrier, .receiving), (.sensingCarrier, .transmitting), (.transmitting, .jamming),
    (.jamming, .backingOff), (.jamming, .sensingCarrier), (.backingOff, .sensingCarrier),
    (.receiving, .sensingCarrier)]

/-- A body and its unstuffed bytes, by the block table of 30_encoding.md R83: a block is a code byte `c` and
`c - 1` non-zero data bytes, and stands for those bytes and one zero, but for the last block and the blocks
with code 0xFF, which imply no zero. -/
inductive Unstuffed : List Byte → List Byte → Prop
  /-- no block -/
  | empty : Unstuffed [] []
  /-- the last block -/
  | last (c : Byte) (data : List Byte) : c.toNat = data.length + 1 → 0 ∉ data → Unstuffed (c :: data) data
  /-- a block with an implied zero -/
  | zero (c : Byte) (data rest out : List Byte) : c.toNat = data.length + 1 → 0 ∉ data → c ≠ 0xFF → rest ≠ [] →
      Unstuffed rest out → Unstuffed (c :: data ++ rest) (data ++ 0 :: out)
  /-- a full block -/
  | full (data rest out : List Byte) : data.length = 254 → 0 ∉ data → rest ≠ [] →
      Unstuffed rest out → Unstuffed (0xFF :: data ++ rest) (data ++ out)

/-- Two states that differ at most in bytes no rule reads: `BUF` at and above `BUFLEN`, `TXPAY` at and above
`TXLEN` (10_state.md R45, R46; 93_implementation_defined.md U11). -/
def SameButStale (s t : State) : Prop :=
  t = { s with buf := t.buf, txPay := t.txPay } ∧
  (∀ a < s.bufLen.toNat, Memory.read t.buf a = Memory.read s.buf a) ∧
  (∀ a < s.txLen.toNat, Memory.read t.txPay a = Memory.read s.txPay a)

/-- The registers of `s` as a configuration leaves them after `RESET` and nine `CFGWR` (70_reset_and_hazards.md
R293). -/
def configured (c : Configuration) (s : State) : State :=
  { s with
    bitTicks := c.bitTicks, ifgTicks := c.ifgTicks, jamTicks := c.jamTicks, backoffMin := c.backoffMin,
    backoffMax := c.backoffMax, maxRetries := c.maxRetries, localAddr := c.localAddr, bcastAddr := c.bcastAddr,
    maxPayload := c.maxPayload }

/-- The nine configuration registers are the same in two states (10_state.md R20). -/
def SameConfiguration (s t : State) : Prop :=
  t.bitTicks = s.bitTicks ∧ t.ifgTicks = s.ifgTicks ∧ t.jamTicks = s.jamTicks ∧ t.backoffMin = s.backoffMin ∧
  t.backoffMax = s.backoffMax ∧ t.maxRetries = s.maxRetries ∧ t.localAddr = s.localAddr ∧
  t.bcastAddr = s.bcastAddr ∧ t.maxPayload = s.maxPayload

end Sys2Proof
end

