-- ==== Sys2Proof/Certificates/Slice0/Obligations.lean ====
section
/-!
DEFINITION. The statements for the provers. A statement about `exec` or `step` is about the machine with the default
parameters (log 9), one with `P` about the machine of every deployment; a completion statement concludes that
`exec` answers a next state.
-/

open Sys2Proof Sys2Proof.Machine

/-! ### Records (30_encoding.md) -/

/-- R96, R97: decoding the record of a well-formed operation, whatever bytes follow it, gives that operation and
those bytes. -/
def Obligations.DecodingAnEncodedOperationGivesItBack : Prop :=
  ∀ (i : Instr) (rest : List Byte), i.wf = true → decode (encode i ++ rest) = .record i rest

/-- R96, R97: every record the decoder accepts is the record of a well-formed operation: each operation has one
record. -/
def Obligations.EveryDecodedRecordIsAnEncoding : Prop :=
  ∀ (i : Instr) (bytes rest : List Byte), decode bytes = .record i rest → i.wf = true ∧ bytes = encode i ++ rest

/-- R101: a record with a code byte that R96 does not list is rejected, and the block takes no step on it. -/
def Obligations.ReservedCodesAreRejected : Prop :=
  ∀ (c : Byte) (rest : List Byte),
    c.toNat ∉ [0x00, 0x01, 0x02, 0x03, 0x04, 0x05, 0x10, 0x11, 0x18, 0x19, 0x20, 0x21, 0x22, 0x23, 0x24] →
    decode (c :: rest) = .reservedCode c ∧
    ∀ s : State, s.input = c :: rest → step s = .refused (.reservedCode c)

/-- R97 (a sanity statement): records written out from the patterns decode to the operations they stand for. -/
def Obligations.WrittenOutRecordsDecode : Prop :=
  decode [0x01, 0x01, 0x00, 0x00, 0x01, 0x18] = .record (.cfgwr 1 280) [] ∧
  decode [0x02, 0x09] = .record (.rdreg 9) [] ∧
  decode [0x04, 0xFF, 0x00, 0x02, 0x41, 0x41] = .record (.send 0xFF 2 [0x41, 0x41]) [] ∧
  decode [0x11, 0x18, 0x00, 0x00, 0x13, 0x88] = .record .tick [0x18, 0x00, 0x00, 0x13, 0x88] ∧
  decode [0x18, 0x00, 0x00, 0x13, 0x88] = .record (.lineidle 5000) [] ∧
  decode [0x19, 0x00, 0x00, 0x01, 0x2C] = .record (.random 300) [] ∧
  decode [0x20, 0x01] = .record (.txen true) [] ∧
  decode [0x23, 0x02, 0x00, 0x02, 0x42, 0x42] = .record (.rxdeliver 2 2 [0x42, 0x42]) []

/-- A step runs the operation whose record stands first in `input`, from the state whose `input` starts after
that record, and then passes over the records of the outputs it has emitted, if they stand there (30_encoding.md
R97; that nothing is passed over where other bytes stand there is the model's choice, log 18); with nothing
delivered the block stays as it is (43_mac.md R170, log 1). -/
def Obligations.StepRunsTheDeliveredOperation : Prop :=
  (∀ (s : State) (i : Instr) (rest : List Byte), decode s.input = .record i rest →
    step s = andThen (exec i { s with input := rest }) fun t => .next (skipOutputs i { s with input := rest } t)) ∧
  (∀ (i : Instr) (s t : State) (rest : List Byte), i.dir = .toBlock →
    t.input = outputRecords (emitted s t) ++ rest → skipOutputs i s t = { t with input := rest }) ∧
  (∀ (i : Instr) (s t : State), i.dir ≠ .toBlock ∨ (∀ rest, t.input ≠ outputRecords (emitted s t) ++ rest) →
    skipOutputs i s t = t) ∧
  ∀ s : State, s.input = [] → step s = .next s

/-! ### Frame codec (40_frame_codec.md) -/

/-- R114: unstuffing a stuffed byte sequence gives it back. -/
def Obligations.UnstuffingAStuffedSequenceGivesItBack : Prop :=
  ∀ d : List Byte, stuffDecode (stuffEncode d) = some d

/-- R112, R84: a stuffed sequence holds no delimiter, and its length lies within the bounds of R112; a sequence
without a zero byte takes the longest body. -/
def Obligations.StuffedSequencesHoldNoDelimiterAndFitTheirBound : Prop :=
  ∀ d : List Byte, delim ∉ stuffEncode d ∧
    d.length + 1 ≤ (stuffEncode d).length ∧ (stuffEncode d).length ≤ stuffMax d.length ∧
    (0 ∉ d → (stuffEncode d).length = stuffMax d.length)

/-- R83, R113: `StuffDecode` reads exactly the bodies of the block table, non-canonical ones included (R89). -/
def Obligations.UnstuffingReadsExactlyTheBlockTable : Prop :=
  ∀ body d : List Byte, stuffDecode body = some d ↔ Unstuffed body d

/-- R118, for every checksum function: decoding an encoded frame, its delimiter removed, gives the frame back;
the body holds no delimiter. -/
def Obligations.DecodingAnEncodedFrameGivesItBack : Prop :=
  ∀ (checksum : List Byte → Half) (maxPayload : Half) (d s : Byte) (p : List Byte),
    p.length ≤ maxPayload.toNat →
    ∃ body, encodeFrame checksum maxPayload d s p = some (body ++ [delim]) ∧ delim ∉ body ∧
      decodeFrame checksum maxPayload body = .frame ⟨d, s, p⟩

/-- R117: the four checks of `Decode`, in their order, for every checksum function. -/
def Obligations.DecodeMakesItsFourChecksInOrder : Prop :=
  ∀ (checksum : List Byte → Half) (maxPayload : Half) (body : List Byte),
    (stuffDecode body = none → decodeFrame checksum maxPayload body = .malformedFrame) ∧
    (∀ d, stuffDecode body = some d → d.length < 4 ∨ maxPayload.toNat + 4 < d.length →
      decodeFrame checksum maxPayload body = .malformedFrame) ∧
    ∀ (dst src : Byte) (payload : List Byte) (hi lo : Byte),
      stuffDecode body = some (dst :: src :: payload ++ [hi, lo]) → payload.length ≤ maxPayload.toNat →
      (checksum (dst :: src :: payload) ≠ hi.setWidth 16 <<< 8 ||| lo.setWidth 16 →
        decodeFrame checksum maxPayload body = .checksumMismatch) ∧
      (checksum (dst :: src :: payload) = hi.setWidth 16 <<< 8 ||| lo.setWidth 16 →
        decodeFrame checksum maxPayload body = .frame ⟨dst, src, payload⟩)

/-- R119, for the default checksum: flipping any one bit of a raw frame that decodes gives `ChecksumMismatch`. -/
def Obligations.EverySingleBitErrorOfARawFrameIsDetected : Prop :=
  ∀ (maxPayload : Half) (raw : List Byte) (f : Frame) (k bit : Nat) (b : Byte),
    decodeRaw checksum16 maxPayload raw = .frame f → raw[k]? = some b → bit < 8 →
    decodeRaw checksum16 maxPayload (raw.set k (b ^^^ (1#8 <<< bit))) = .checksumMismatch

/-- R111, R302: the systematic weakness of the default checksum: a raw frame that decodes, followed by one zero
byte, decodes too, its payload longer by the high checksum byte. -/
def Obligations.ATrailingZeroByteIsNotDetected : Prop :=
  ∀ (maxPayload : Half) (dst src : Byte) (payload : List Byte) (hi lo : Byte),
    payload.length + 1 ≤ maxPayload.toNat →
    decodeRaw checksum16 maxPayload (dst :: src :: payload ++ [hi, lo]) = .frame ⟨dst, src, payload⟩ →
    decodeRaw checksum16 maxPayload (dst :: src :: payload ++ [hi, lo, 0]) = .frame ⟨dst, src, payload ++ [hi]⟩

/-! ### Configuration and reset (42_timing_config.md, 70_reset_and_hazards.md) -/

/-- R150: `CFGWR` stores the value truncated to the width of the register, or is ignored. -/
def Obligations.CfgwrStoresTheTruncatedValueOrIsIgnored : Prop :=
  ∀ (s : State) (val : Word),
    (s.cfgValid = false ∧ s.fault = false →
      exec (.cfgwr 0 val) s = .next { s with bitTicks := val } ∧
      exec (.cfgwr 1 val) s = .next { s with ifgTicks := val } ∧
      exec (.cfgwr 2 val) s = .next { s with jamTicks := val } ∧
      exec (.cfgwr 3 val) s = .next { s with backoffMin := val } ∧
      exec (.cfgwr 4 val) s = .next { s with backoffMax := val } ∧
      exec (.cfgwr 5 val) s = .next { s with maxRetries := val.extractLsb' 0 5 } ∧
      exec (.cfgwr 6 val) s = .next { s with localAddr := val.extractLsb' 0 8 } ∧
      exec (.cfgwr 7 val) s = .next { s with bcastAddr := val.extractLsb' 0 8 } ∧
      exec (.cfgwr 8 val) s = .next { s with maxPayload := val.extractLsb' 0 16 } ∧
      ∀ idx : Byte, 9 ≤ idx.toNat → exec (.cfgwr idx val) s = .next s) ∧
    (s.cfgValid = true ∨ s.fault = true → ∀ idx : Byte, exec (.cfgwr idx val) s = .next s)

/-- R151 with the table of R98 and the layout of R33: `RDREG` returns the value of the register and changes
nothing; a reserved index returns 0. -/
def Obligations.RdregReturnsTheRegisterAndChangesNothing : Prop :=
  ∀ s : State,
    exec (.rdreg 0) s = .next { s with ret := some s.bitTicks } ∧
    exec (.rdreg 1) s = .next { s with ret := some s.ifgTicks } ∧
    exec (.rdreg 2) s = .next { s with ret := some s.jamTicks } ∧
    exec (.rdreg 3) s = .next { s with ret := some s.backoffMin } ∧
    exec (.rdreg 4) s = .next { s with ret := some s.backoffMax } ∧
    exec (.rdreg 5) s = .next { s with ret := some (BitVec.ofNat 32 s.maxRetries.toNat) } ∧
    exec (.rdreg 6) s = .next { s with ret := some (BitVec.ofNat 32 s.localAddr.toNat) } ∧
    exec (.rdreg 7) s = .next { s with ret := some (BitVec.ofNat 32 s.bcastAddr.toNat) } ∧
    exec (.rdreg 8) s = .next { s with ret := some (BitVec.ofNat 32 s.maxPayload.toNat) } ∧
    exec (.rdreg 10) s = .next { s with ret := some (BitVec.ofNat 32 s.retry.toNat) } ∧
    exec (.rdreg 11) s = .next { s with ret := some (BitVec.ofNat 32 s.cfgErr.toNat) } ∧
    exec (.rdreg 12) s = .next { s with ret := some s.timer } ∧
    (∀ idx : Byte, 14 ≤ idx.toNat → exec (.rdreg idx) s = .next { s with ret := some 0 }) ∧
    (∃ v, exec (.rdreg 13) s = .next { s with ret := some v } ∧
      v.extractLsb' 0 16 = s.bufLen ∧ v.extractLsb' 16 16 = s.idx) ∧
    ∃ v, exec (.rdreg 9) s = .next { s with ret := some v } ∧
      v.extractLsb' 0 3 = phaseCode s.phase ∧ v.getLsbD 3 = s.sendPending ∧ v.getLsbD 4 = s.txen ∧
      (v.getLsbD 5 = true ↔ s.timer ≠ 0) ∧ v.getLsbD 6 = s.cfgValid ∧ v.getLsbD 7 = s.fault ∧
      v.getLsbD 8 = s.rxOvf ∧ v.extractLsb' 9 23 = 0

/-- R35: the codes of the six phases. -/
def Obligations.PhaseCodesFollowTheListing : Prop :=
  phaseCode .idle = 0 ∧ phaseCode .sensingCarrier = 1 ∧ phaseCode .transmitting = 2 ∧ phaseCode .jamming = 3 ∧
  phaseCode .backingOff = 4 ∧ phaseCode .receiving = 5

/-- R153, for all implementation parameters: bit `k-1` of the mask is 1 exactly when rule `Vk` fails. -/
def Obligations.ValidationReportsEachFailedRule : Prop :=
  ∀ (P : Params) (s : State),
    ((validateConfig P s).getLsbD 0 = true ↔ ¬1 ≤ s.bitTicks.toNat) ∧
    ((validateConfig P s).getLsbD 1 = true ↔ ¬2 * (P.charBits * s.bitTicks.toNat) ≤ s.ifgTicks.toNat) ∧
    ((validateConfig P s).getLsbD 2 = true ↔ ¬P.charBits * s.bitTicks.toNat ≤ s.jamTicks.toNat) ∧
    ((validateConfig P s).getLsbD 3 = true ↔ ¬s.backoffMin.toNat ≤ s.backoffMax.toNat) ∧
    ((validateConfig P s).getLsbD 4 = true ↔ ¬s.backoffMax.toNat * 2 ^ s.maxRetries.toNat ≤ 2 ^ 32 - 1) ∧
    ((validateConfig P s).getLsbD 5 = true ↔ ¬s.maxPayload.toNat ≤ P.payloadCap)

/-- R152: `INIT` is refused when locked or faulted; else it faults with the mask, or locks the configuration and
goes on to listening with a full window. -/
def Obligations.InitRefusesFaultsOrBoots : Prop :=
  ∀ s : State,
    (s.cfgValid = true ∨ s.fault = true → exec .init s = .next { s with ret := some 0xFF }) ∧
    (s.cfgValid = false ∧ s.fault = false →
      (validateConfig defaultParams s ≠ 0 →
        exec .init s =
          .next { s with cfgErr := validateConfig defaultParams s, fault := true, ret := some 5 }) ∧
      (validateConfig defaultParams s = 0 →
        exec .init s = .next { s with
          cfgValid := true, phase := .sensingCarrier, timer := s.ifgTicks, bufLen := 0, idx := 0, rxOvf := false,
          ret := some 0 }))

/-- R290, R51: `RESET` runs in every state, puts every register at 0 and `PHASE` at `Idle`, and releases the bus if
the block was driving it. (It says nothing of the contents of `BUF` and `TXPAY`, which R51 leaves
unspecified.) That `input`, `ret`, `lineIdleAns`, `randomAns` and `asked` stay as they are is the model's choice
(log 6), no rule of the spec. -/
def Obligations.ResetClearsEveryRegisterAndReleasesTheBus : Prop :=
  ∀ s : State, ∃ t, exec .reset s = .next t ∧
    t.bitTicks = 0 ∧ t.ifgTicks = 0 ∧ t.jamTicks = 0 ∧ t.backoffMin = 0 ∧ t.backoffMax = 0 ∧ t.maxRetries = 0 ∧
    t.localAddr = 0 ∧ t.bcastAddr = 0 ∧ t.maxPayload = 0 ∧ t.cfgValid = false ∧ t.fault = false ∧ t.cfgErr = 0 ∧
    t.phase = .idle ∧ t.idx = 0 ∧ t.sendPending = false ∧ t.rxOvf = false ∧ t.txen = false ∧ t.timer = 0 ∧
    t.retry = 0 ∧ t.txDst = 0 ∧ t.txLen = 0 ∧ t.bufLen = 0 ∧
    t.out = s.out ++ (if s.txen = true then [.txen false] else []) ∧
    t.input = s.input ∧ t.ret = s.ret ∧ t.lineIdleAns = s.lineIdleAns ∧ t.randomAns = s.randomAns ∧
    t.asked = s.asked

/-- R155, R31: once locked, no operation but `RESET` changes one of the nine registers or unlocks them; and no
operation but `RESET` leaves the fault mode. -/
def Obligations.OnlyResetUnlocksTheConfiguration : Prop :=
  ∀ (i : Instr) (s t : State), i ≠ .reset → exec i s = .next t →
    (s.cfgValid = true → SameConfiguration s t ∧ t.cfgValid = true) ∧
    (s.fault = true → t.fault = true ∧ t.cfgErr = s.cfgErr ∧ SameConfiguration s t)

/-- R256: what each input operation does in fault mode, from any state that keeps the invariants. -/
def Obligations.FaultModeAnswersOnlyResetAndRdreg : Prop :=
  ∀ s : State, Inv defaultParams s → s.fault = true →
    (∀ idx val, exec (.cfgwr idx val) s = .next s) ∧
    (∀ idx, ∃ v, exec (.rdreg idx) s = .next { s with ret := some v }) ∧
    exec .init s = .next { s with ret := some 0xFF } ∧
    (∀ dst len payload, exec (.send dst len payload) s = .next { s with ret := some 0xFF }) ∧
    exec .cancel s = .next { s with ret := some 0 } ∧
    (∀ b, exec (.byte b) s = .next s) ∧
    exec .tick s = .next s ∧
    ∃ t, exec .reset s = .next t ∧ t.fault = false ∧ t.out = s.out

/-- R293: the boot sequence, from any state whatever, with any configuration that validates: the block ends up
listening, configured as written, and accepts the next operations. -/
def Obligations.TheBootSequenceStartsListening : Prop :=
  ∀ (s : State) (c : Configuration), validateConfig defaultParams (configured c s) = 0 →
    ∃ t, runScript (scriptBoot c) s = .next t ∧ t.ret = some 0 ∧ running t = true ∧
      t.phase = .sensingCarrier ∧ t.timer = c.ifgTicks ∧ t.sendPending = false ∧ t.txen = false ∧
      SameConfiguration (configured c s) t

/-! ### `SEND` and `CANCEL` (43_mac.md) -/

/-- R174: `SEND` is refused, too large, or latched; the bytes it stores are `TXPAY[0 .. len-1]`. The hypothesis
`MAX_PAYLOAD <= PAYLOAD_CAP` is validation rule V6. -/
def Obligations.SendIsRefusedTooLargeOrLatched : Prop :=
  ∀ (s : State) (dst : Byte) (len : Half) (payload : List Byte), payload.length = len.toNat →
    (running s = false ∨ s.sendPending = true →
      exec (.send dst len payload) s = .next { s with ret := some 0xFF }) ∧
    (running s = true ∧ s.sendPending = false ∧ s.maxPayload.toNat < len.toNat →
      exec (.send dst len payload) s = .next { s with ret := some 1 }) ∧
    (running s = true ∧ s.sendPending = false ∧ len.toNat ≤ s.maxPayload.toNat ∧ s.maxPayload.toNat ≤ 256 →
      ∃ m, exec (.send dst len payload) s = .next { s with
          txDst := dst, txLen := len, txPay := m, sendPending := true, retry := 0,
          timer := if s.phase = .sensingCarrier ∧ s.timer = 0 then s.ifgTicks else s.timer, ret := some 0 } ∧
        (∀ a < len.toNat, Memory.read m a = payload[a]?) ∧
        ∀ a, len.toNat ≤ a → Memory.read m a = Memory.read s.txPay a)

/-- R175: `CANCEL` withdraws a pending request in `Idle` and `SensingCarrier` only; nothing else changes. -/
def Obligations.CancelWithdrawsOnlyBeforeTransmission : Prop :=
  ∀ s : State,
    (s.sendPending = true ∧ (s.phase = .idle ∨ s.phase = .sensingCarrier) →
      exec .cancel s = .next { s with sendPending := false, retry := 0, ret := some 1 }) ∧
    (¬(s.sendPending = true ∧ (s.phase = .idle ∨ s.phase = .sensingCarrier)) →
      exec .cancel s = .next { s with ret := some 0 })

/-! ### `BYTE`, phase by phase -/

/-- R198: a byte in `BackingOff` is discarded, and (R177) so is a byte when the block is not running. -/
def Obligations.BytesAreDiscardedInBackingOffAndWhenNotRunning : Prop :=
  ∀ (s : State) (b : Byte), running s = false ∨ s.phase = .backingOff → exec (.byte b) s = .next s

/-- R195: a byte in `Jamming`, whatever its value, triggers the next jam byte and writes no register. -/
def Obligations.EveryByteInJammingWritesAnotherJamByte : Prop :=
  ∀ (s : State) (b : Byte), running s = true → s.phase = .jamming →
    exec (.byte b) s = .next { s with out := s.out ++ [.write 0x00] }

/-- R188: the echo comparison: the next byte, the end of the frame, or a collision. -/
def Obligations.TheEchoIsComparedWithTheByteWritten : Prop :=
  ∀ (s : State) (b e : Byte), running s = true → s.phase = .transmitting →
    bufRead s s.idx.toNat = some e →
    (b = e ∧ s.idx.toNat + 1 < s.bufLen.toNat → ∀ w, bufRead s (s.idx.toNat + 1) = some w →
      exec (.byte b) s = .next { s with
        idx := s.idx + 1, timer := s.ifgTicks, out := s.out ++ [.write w] }) ∧
    (b = e ∧ s.idx.toNat + 1 = s.bufLen.toNat →
      exec (.byte b) s = .next { s with
        phase := .sensingCarrier, timer := s.ifgTicks, txen := false, sendPending := false, retry := 0,
        bufLen := 0, idx := 0, rxOvf := false, out := s.out ++ [.txen false, .senddone 0x00] }) ∧
    (b ≠ e →
      exec (.byte b) s = .next { s with
        phase := .jamming, timer := s.jamTicks, out := s.out ++ [.write 0x00] })

/-- R180: a byte in `SensingCarrier` starts a reception; a bare delimiter is an empty frame, dropped at once. -/
def Obligations.AByteWhileSensingStartsAReception : Prop :=
  ∀ (s : State) (b : Byte), running s = true → s.phase = .sensingCarrier →
    (b ≠ 0 → ∃ m, exec (.byte b) s = .next { s with
        phase := .receiving, bufLen := 1, rxOvf := false, timer := s.ifgTicks, buf := m } ∧
      Memory.read m 0 = some b ∧ ∀ a, a ≠ 0 → Memory.read m a = Memory.read s.buf a) ∧
    (b = 0 → exec (.byte b) s = .next { s with
        phase := .sensingCarrier, timer := s.ifgTicks, bufLen := 0, idx := 0, rxOvf := false,
        out := s.out ++ [.drop 0x03] })

/-- R200: a body byte in `Receiving` is stored at `BUF[BUFLEN]` below `RX_LIMIT` and discarded with `RX_OVF` set
from there on; both re-arm the inter-byte time-out. The hypothesis on `MAX_PAYLOAD` is validation rule V6. -/
def Obligations.ABodyByteIsStoredOrOverflows : Prop :=
  ∀ (s : State) (b : Byte), running s = true → s.phase = .receiving → b ≠ 0 → s.maxPayload.toNat ≤ 256 →
    (s.bufLen.toNat < s.maxPayload.toNat + 4 + (s.maxPayload.toNat + 4) / 254 + 1 →
      ∃ m, exec (.byte b) s = .next { s with buf := m, bufLen := s.bufLen + 1, timer := s.ifgTicks } ∧
        Memory.read m s.bufLen.toNat = some b ∧
        ∀ a, a ≠ s.bufLen.toNat → Memory.read m a = Memory.read s.buf a) ∧
    (s.maxPayload.toNat + 4 + (s.maxPayload.toNat + 4) / 254 + 1 ≤ s.bufLen.toNat →
      exec (.byte b) s = .next { s with rxOvf := true, timer := s.ifgTicks })

/-- R201: the delimiter ends a body: overflow, then `Decode`, then the address filter decide between delivery and
a silent drop; the block returns to listening. -/
def Obligations.TheDelimiterDeliversOrDropsTheFrame : Prop :=
  ∀ s : State, running s = true → s.phase = .receiving →
    (s.rxOvf = true →
      exec (.byte 0) s = .next { s with
        phase := .sensingCarrier, timer := s.ifgTicks, bufLen := 0, idx := 0, rxOvf := false,
        out := s.out ++ [.drop 0x03] }) ∧
    (s.rxOvf = false → ∀ body, bufBytes s = some body →
      exec (.byte 0) s = .next { s with
        phase := .sensingCarrier, timer := s.ifgTicks, bufLen := 0, idx := 0, rxOvf := false,
        out := s.out ++ [match decodeFrame checksum16 s.maxPayload body with
          | .frame f =>
            if f.destination = s.localAddr ∨ f.destination = s.bcastAddr then
              .rxdeliver f.source (BitVec.ofNat 16 f.payload.length) f.payload
            else .drop 0x06
          | .checksumMismatch => .drop 0x02
          | .malformedFrame => .drop 0x03] })

/-! ### `TICK`, phase by phase -/

/-- R178: a tick with nothing armed changes nothing, and above 1 it only counts the timer down. -/
def Obligations.ATickCountsTheTimerDown : Prop :=
  ∀ s : State,
    (s.timer = 0 → exec .tick s = .next s) ∧
    (1 < s.timer.toNat → exec .tick s = .next { s with timer := s.timer - 1 })

/-- R41: a deadline armed with `d` does not expire before the `d`-th following tick: `n` ticks, `n < d`, only count
it down by `n`. -/
def Obligations.ADeadlineLastsAsManyTicksAsArmed : Prop :=
  ∀ (s : State) (n : Nat), n < s.timer.toNat →
    runScript (scriptTicks n) s = .next { s with timer := s.timer - BitVec.ofNat 32 n }

/-- R186, R184: the sensing window runs out: an answer below the inter-frame gap is activity; else a pending
request is encoded, stored at `BUF[0 .. ]`, and its first byte written; else the block listens with the timer
off. Only the bytes of the wire frame are stored. Where the answer comes from and what is consumed with it
(`LineIdleAnswered`) is the model's choice (log 3), no rule of the spec. -/
def Obligations.TheSensingExpiryReceivesTransmitsOrListens : Prop :=
  ∀ (s t : State) (q : Word), s.phase = .sensingCarrier → s.timer = 1 → LineIdleAnswered s q t →
    (q.toNat < s.ifgTicks.toNat →
      exec .tick s = .next { t with
        phase := .receiving, timer := s.ifgTicks, bufLen := 0, rxOvf := false }) ∧
    (s.ifgTicks.toNat ≤ q.toNat ∧ s.sendPending = false → exec .tick s = .next { t with timer := 0 }) ∧
    (s.ifgTicks.toNat ≤ q.toNat ∧ s.sendPending = true → ∀ p, txPayRead s = some p →
      p.length ≤ s.maxPayload.toNat → s.maxPayload.toNat ≤ 256 →
      ∃ b w m, encodeFrame checksum16 s.maxPayload s.txDst s.localAddr p = some (b :: w) ∧
        exec .tick s = .next { t with
          buf := m, bufLen := BitVec.ofNat 16 (w.length + 1), idx := 0, phase := .transmitting, txen := true,
          timer := s.ifgTicks, out := s.out ++ [.txen true, .write b] } ∧
        (∀ a < w.length + 1, Memory.read m a = (b :: w)[a]?) ∧
        ∀ a, w.length + 1 ≤ a → Memory.read m a = Memory.read s.buf a)

/-- R190: no echo within the time-out is a collision. -/
def Obligations.AMissingEchoIsACollision : Prop :=
  ∀ s : State, s.phase = .transmitting → s.timer = 1 →
    exec .tick s = .next { s with phase := .jamming, timer := s.jamTicks, out := s.out ++ [.write 0x00] }

/-- R231, R196: the end of the jam: the line is released, one delay is drawn from the scaled range, the counter
goes up, and the request is abandoned or waits (a delay of 0 is not timed). The hypotheses on the range are
validation rules V4 and V5, the one on `RETRY` is invariant 9. Where the answer comes from and what is consumed with
it (`RandomAnswered`) is the model's choice (log 3), no rule of the spec. -/
def Obligations.TheJamExpiryDrawsADelayOrAbandons : Prop :=
  ∀ (s t : State) (x : Nat), running s = true → s.phase = .jamming → s.timer = 1 →
    s.backoffMin.toNat ≤ s.backoffMax.toNat → s.backoffMax.toNat * 2 ^ s.retry.toNat < 2 ^ 32 →
    s.retry.toNat ≤ s.maxRetries.toNat →
    RandomAnswered s
      (s.backoffMax.toNat * 2 ^ s.retry.toNat - s.backoffMin.toNat * 2 ^ s.retry.toNat + 1) x t →
    (s.maxRetries.toNat < s.retry.toNat + 1 →
      exec .tick s = .next { t with
        phase := .sensingCarrier, timer := s.ifgTicks, txen := false, sendPending := false, retry := 0,
        bufLen := 0, idx := 0, rxOvf := false, out := s.out ++ [.txen false, .senddone 0x04] }) ∧
    (s.retry.toNat + 1 ≤ s.maxRetries.toNat ∧ s.backoffMin.toNat * 2 ^ s.retry.toNat + x = 0 →
      exec .tick s = .next { t with
        phase := .sensingCarrier, timer := s.ifgTicks, txen := false, retry := s.retry + 1,
        out := s.out ++ [.txen false] }) ∧
    (s.retry.toNat + 1 ≤ s.maxRetries.toNat ∧ s.backoffMin.toNat * 2 ^ s.retry.toNat + x ≠ 0 →
      exec .tick s = .next { t with
        phase := .backingOff, timer := BitVec.ofNat 32 (s.backoffMin.toNat * 2 ^ s.retry.toNat + x),
        txen := false, retry := s.retry + 1, out := s.out ++ [.txen false] })

/-- R264, R232: an answer of the entropy source outside `[0, range)` is refused: the step is not taken. That
the refusal comes in the step that asks is the model's choice (log 4), and so is where the answer comes from
(`RandomSupplied`, log 3). -/
def Obligations.ADrawOutsideItsRangeIsRefused : Prop :=
  ∀ (s : State) (v : Word), s.phase = .jamming → s.timer = 1 →
    s.backoffMin.toNat ≤ s.backoffMax.toNat → s.backoffMax.toNat * 2 ^ s.retry.toNat < 2 ^ 32 →
    RandomSupplied s v →
    s.backoffMax.toNat * 2 ^ s.retry.toNat - s.backoffMin.toNat * 2 ^ s.retry.toNat + 1 ≤ v.toNat →
    exec .tick s = .refused .randomOutOfRange

/-- R197: when the delay is over, the block senses the carrier again; the request and the counter stay. -/
def Obligations.TheBackoffExpirySensesAgain : Prop :=
  ∀ s : State, s.phase = .backingOff → s.timer = 1 →
    exec .tick s = .next { s with phase := .sensingCarrier, timer := s.ifgTicks }

/-- R202: no byte for the time-out: the truncated frame is dropped. -/
def Obligations.AReceptionThatStopsIsDropped : Prop :=
  ∀ s : State, running s = true → s.phase = .receiving → s.timer = 1 →
    exec .tick s = .next { s with
      phase := .sensingCarrier, timer := s.ifgTicks, bufLen := 0, idx := 0, rxOvf := false,
      out := s.out ++ [.drop 0x03] }

/-- R236: the backoff delay lies within the range of its retry count, for every answer the step accepts. -/
def Obligations.TheBackoffDelayIsBounded : Prop :=
  ∀ s t : State, Inv defaultParams s → s.phase = .jamming → s.timer = 1 → exec .tick s = .next t →
    t.retry.toNat ≤ t.maxRetries.toNat ∧
    ((t.phase = .backingOff ∧ t.retry.toNat = s.retry.toNat + 1 ∧
        s.backoffMin.toNat * 2 ^ s.retry.toNat ≤ t.timer.toNat ∧
        t.timer.toNat ≤ s.backoffMax.toNat * 2 ^ s.retry.toNat) ∨
      (t.phase = .sensingCarrier ∧ t.timer = s.ifgTicks ∧
        (s.backoffMin = 0 ∧ t.sendPending = true ∨ s.retry.toNat = s.maxRetries.toNat ∧ t.sendPending = false)))

/-! ### Answers and output actions -/

/-- The model's choice (log 3): an answer delivered as an operation of its own is kept, in order, for the question
to come; nothing else changes. -/
def Obligations.AnswersAreKeptForTheirQuestions : Prop :=
  ∀ (s : State) (v : Word),
    exec (.lineidle v) s = .next { s with lineIdleAns := s.lineIdleAns ++ [v] } ∧
    exec (.random v) s = .next { s with randomAns := s.randomAns ++ [v] }

/-- The model's choice (log 5): an output action delivered as an operation of its own is performed: it is emitted,
in order, and no register is written. -/
def Obligations.OutputActionsAreEmitted : Prop :=
  ∀ (s : State) (on : Bool) (b : Byte) (len : Half) (payload : List Byte),
    exec (.txen on) s = .next { s with out := s.out ++ [.txen on] } ∧
    exec (.write b) s = .next { s with out := s.out ++ [.write b] } ∧
    exec (.senddone b) s = .next { s with out := s.out ++ [.senddone b] } ∧
    exec (.rxdeliver b len payload) s = .next { s with out := s.out ++ [.rxdeliver b len payload] } ∧
    exec (.drop b) s = .next { s with out := s.out ++ [.drop b] }

/-! ### Frames -/

/-- What a `BYTE` leaves unchanged: the configuration and its bits, the pending request's operands, the answers and
the return value; and every byte of `BUF` but the one it stores. -/
def Obligations.AByteChangesOnlyTheSession : Prop :=
  ∀ (s t : State) (b : Byte), exec (.byte b) s = .next t →
    SameConfiguration s t ∧ t.cfgValid = s.cfgValid ∧ t.fault = s.fault ∧ t.cfgErr = s.cfgErr ∧
    t.txDst = s.txDst ∧ t.txLen = s.txLen ∧ t.txPay = s.txPay ∧ t.input = s.input ∧
    t.lineIdleAns = s.lineIdleAns ∧ t.randomAns = s.randomAns ∧ t.asked = s.asked ∧ t.ret = s.ret ∧
    (∀ a, storeIndex s b ≠ some a → Memory.read t.buf a = Memory.read s.buf a) ∧
    ∀ a, storeIndex s b = some a → Memory.read t.buf a = some b

/-- What a `TICK` leaves unchanged; `BUF` changes only where a sensing expiry stores the wire frame. -/
def Obligations.ATickChangesOnlyTheSession : Prop :=
  ∀ s t : State, exec .tick s = .next t →
    SameConfiguration s t ∧ t.cfgValid = s.cfgValid ∧ t.fault = s.fault ∧ t.cfgErr = s.cfgErr ∧
    t.txDst = s.txDst ∧ t.txLen = s.txLen ∧ t.txPay = s.txPay ∧ t.ret = s.ret ∧
    (t.phase ≠ .transmitting ∨ s.phase = .transmitting → t.buf = s.buf) ∧
    ∀ w, wireFrame defaultParams s = some w →
      ∀ a, w.length ≤ a → Memory.read t.buf a = Memory.read s.buf a

/-! ### Invariants and safety -/

/-- The invariants hold right after reset, whatever is delivered (10_state.md R52). -/
def Obligations.TheInvariantsHoldAfterReset : Prop :=
  ∀ input : List Byte, Inv defaultParams { State.reset with input := input }

/-- R52: every step keeps the invariants, from every state that satisfies them. -/
def Obligations.EveryStepKeepsTheInvariants : Prop :=
  ∀ s t : State, Inv defaultParams s → step s = .next t → Inv defaultParams t

/-- R62, U25: from a state that satisfies the invariants no operation faults, and the only one that is refused is a
`TICK` that ends the jam with an answer outside its range. That this refusal comes in the step that asks is the
model's choice (log 4). -/
def Obligations.NoOperationFaultsFromAnInvariantState : Prop :=
  ∀ (s : State) (i : Instr), Inv defaultParams s → i.wf = true →
    (∃ t, exec i s = .next t) ∨
    (exec i s = .refused .randomOutOfRange ∧ i = .tick ∧ s.phase = .jamming ∧ s.timer = 1)

/-- R52, R6: the invariants are kept in every deployment, not only with the default parameters: by every well-formed
operation and by every step of the machine of any legal parameters. -/
def Obligations.TheInvariantsHoldForAllParameters : Prop :=
  ∀ (P : Params) (s t : State), P.Legal → Inv P s →
    (∀ i : Instr, i.wf = true → execFor P i s = .next t → Inv P t) ∧ (stepFor P s = .next t → Inv P t)

/-! ### Rules of the whole machine -/

/-- R171: the phase changes only where the transition table has a row. -/
def Obligations.ThePhaseFollowsTheTransitionTable : Prop :=
  ∀ (i : Instr) (s t : State), Inv defaultParams s → exec i s = .next t → t.phase ≠ s.phase →
    (i = .reset ∧ t.phase = .idle) ∨
    (i = .init ∧ s.phase = .idle ∧ t.phase = .sensingCarrier) ∨
    ((∃ b, i = .byte b) ∧ (s.phase, t.phase) ∈ byteMoves) ∨
    (i = .tick ∧ s.timer = 1 ∧ (s.phase, t.phase) ∈ tickMoves)

/-- R262, R99: along the outputs of an input operation the block never writes with the line off, and never emits
`TXEN` with the level it already has; the register `TXEN` is the last level (R39). -/
def Obligations.TheBlockNeverWritesWithTheLineOff : Prop :=
  ∀ (i : Instr) (s t : State), Inv defaultParams s → i.dir = .toBlock → exec i s = .next t →
    (∃ os, t.out = s.out ++ os) ∧ lineLevel s.txen (emitted s t) = some t.txen

/-- R266, R18: an input operation reports `SENDDONE` exactly when it ends the pending request otherwise than by
`CANCEL` or `RESET`, once. -/
def Obligations.ARequestThatEndsIsReportedOnce : Prop :=
  ∀ (i : Instr) (s t : State), Inv defaultParams s → i.dir = .toBlock → exec i s = .next t →
    sendDones (emitted s t) =
      if s.sendPending = true ∧ t.sendPending = false ∧ i ≠ .cancel ∧ i ≠ .reset then 1 else 0

/-- R142: every delivery comes from a body that decodes to a frame addressed to the node or to broadcast, at its
delimiter, in `Receiving`. -/
def Obligations.OnlyAcceptedFramesAreDelivered : Prop :=
  ∀ (i : Instr) (s t : State) (src : Byte) (len : Half) (payload : List Byte),
    i.dir = .toBlock → exec i s = .next t → .rxdeliver src len payload ∈ emitted s t →
    i = .byte 0 ∧ s.phase = .receiving ∧ s.rxOvf = false ∧
    ∃ body d, bufBytes s = some body ∧ decodeFrame checksum16 s.maxPayload body = .frame ⟨d, src, payload⟩ ∧
      (d = s.localAddr ∨ d = s.bcastAddr) ∧ len = BitVec.ofNat 16 payload.length

/-- R263, R264, R237: the block asks at most one question in a step: `LINEIDLE` at a sensing expiry, `RANDOM`, with
the scaled range, at a jam expiry, and nothing anywhere else. -/
def Obligations.QuestionsAreAskedOnlyAtTheTwoExpiries : Prop :=
  ∀ (i : Instr) (s t : State), exec i s = .next t →
    (t.asked = s.asked ∧ ¬(i = .tick ∧ s.timer = 1 ∧ (s.phase = .sensingCarrier ∨ s.phase = .jamming))) ∨
    (i = .tick ∧ s.timer = 1 ∧ s.phase = .sensingCarrier ∧ t.asked = s.asked ++ [.lineIdle]) ∨
    (i = .tick ∧ s.timer = 1 ∧ s.phase = .jamming ∧
      t.asked = s.asked ++ [.random (s.backoffMax.toNat * 2 ^ s.retry.toNat -
        s.backoffMin.toNat * 2 ^ s.retry.toNat + 1)])

/-- R72, R116: every attempt of one request sends the same bytes: while a request stays pending in a running block,
no operation changes its wire frame. -/
def Obligations.EveryAttemptSendsTheSameFrame : Prop :=
  ∀ (i : Instr) (s t : State), Inv defaultParams s → exec i s = .next t →
    s.sendPending = true → t.sendPending = true →
    wireFrame defaultParams t = wireFrame defaultParams s ∧ t.txDst = s.txDst ∧ t.txLen = s.txLen

/-- R45, R46: bytes of `BUF` at and above `BUFLEN` and of `TXPAY` at and above `TXLEN` are never read: two states that
differ in them alone answer every operation alike. -/
def Obligations.UnspecifiedBytesAreNeverRead : Prop :=
  ∀ (i : Instr) (s s' t : State), i.wf = true → SameButStale s s' → exec i s = .next t →
    ∃ t', exec i s' = .next t' ∧ SameButStale t t'

/-! ### Runs -/

/-- R103, R118, R201: the bytes of an encoded frame, delivered one after the other to a listening block, end in
exactly one delivery of that frame if it is addressed to the block or to broadcast, in one drop if not. -/
def Obligations.AnEncodedFrameIsReceivedWhole : Prop :=
  ∀ (s : State) (dst src : Byte) (payload : List Byte), Inv defaultParams s → s.phase = .sensingCarrier →
    payload.length ≤ s.maxPayload.toNat →
    ∃ script t, scriptFrame checksum16 s.maxPayload dst src payload = some script ∧
      runScript script s = .next t ∧ t.phase = .sensingCarrier ∧ t.sendPending = s.sendPending ∧
      t.timer = s.ifgTicks ∧ t.bufLen = 0 ∧
      t.out = s.out ++ [if dst = s.localAddr ∨ dst = s.bcastAddr then
        .rxdeliver src (BitVec.ofNat 16 payload.length) payload else .drop 0x06]

/-- R186, R184, R188, R192: a pending request on a quiet bus that echoes every byte is transmitted whole and
reported: the block waits out its window, writes exactly the wire frame of the request, one byte per echo,
and ends with `SENDDONE(Ok)`. That the answer is delivered first, as an operation of its own that is kept for the later
question, is the model's choice (log 3). -/
def Obligations.ASendOnAQuietBusSucceeds : Prop :=
  ∀ (s : State) (q : Word), Inv defaultParams s → s.phase = .sensingCarrier → s.sendPending = true →
    s.timer ≠ 0 → s.lineIdleAns = [] → s.ifgTicks.toNat ≤ q.toNat →
    ∃ w t, wireFrame defaultParams s = some w ∧
      runScript (.lineidle q :: scriptTicks s.timer.toNat ++ w.map .byte) s = .next t ∧
      t.out = s.out ++ .txen true :: w.map .write ++ [.txen false, .senddone 0x00] ∧
      t.phase = .sensingCarrier ∧ t.sendPending = false ∧ t.retry = 0 ∧ t.txen = false

/-- R189, R271, on the reference bus: two transmitting nodes whose bytes in the closing slot differ both read
another byte than their own and are both in `Jamming` at the end of that global tick, whatever the harness's
byte and whatever the parameters; their jam bytes open the next slot. -/
def Obligations.TwoTransmittersThatDifferBothJam : Prop :=
  ∀ (P : Params) (charTime t0 : Nat) (harness x y : Byte) (m n : State) (b : Bus),
    Inv P m → Inv P n → m.phase = .transmitting → n.phase = .transmitting →
    1 < m.timer.toNat → 1 < n.timer.toNat →
    bufRead m m.idx.toNat = some x → bufRead n n.idx.toNat = some y →
    x ≠ y → harness ≠ x → harness ≠ y → t0 + charTime = b.time + 1 →
    b.nodes = [m, n] → b.slot = some ⟨t0, [⟨0, x, t0⟩, ⟨1, y, t0⟩]⟩ →
    ∃ b' m' n', busTick P charTime harness [] b = some b' ∧ b'.nodes = [m', n'] ∧
      m'.phase = .jamming ∧ n'.phase = .jamming ∧ m'.txen = true ∧ n'.txen = true ∧
      b'.slot = some ⟨b.time + 1, [⟨0, delim, b.time + 1⟩, ⟨1, delim, b.time + 1⟩]⟩

/-! ### The machine of every deployment (00_scope.md R6) -/

/-- R6, U24: in no deployment does an operation fault from a state that satisfies the invariants; each answers a next
state, but for the refusal of an illegal draw (in the step that asks: the model's choice, log 4). -/
def Obligations.NoOperationFaultsForAnyParameters : Prop :=
  ∀ (P : Params) (s : State) (i : Instr), P.Legal → Inv P s → i.wf = true →
    (∃ t, execFor P i s = .next t) ∨
    (execFor P i s = .refused .randomOutOfRange ∧ i = .tick ∧ s.phase = .jamming ∧ s.timer = 1)

/-- R6: `exec` and `step` are the machine of every deployment at the defaults of the spec (log 9). -/
def Obligations.TheCoreIsTheMachineAtTheDefaults : Prop :=
  (∀ (i : Instr) (s : State), exec i s = execFor defaultParams i s) ∧ ∀ s : State, step s = stepFor defaultParams s

/-! ### Traces (30_encoding.md R97) -/

/-- What a trace writes for an input operation (R97) is read back, whatever bytes follow it and whatever the
parameters: the step takes the answer from its record, passes over the return value and the records of the outputs, leads to the
same state, and emits every output once. Where the operation returns nothing, the ordinary step does so too. (With
no answer supplied ahead; that those come first is the model's choice, log 3.) The model's choice too (log 18): that
a step passes over the records of its own outputs, that the trace step alone passes over return values, and the
byte form of those values. -/
def Obligations.ATraceIsReadBackEntryByEntry : Prop :=
  ∀ (P : Params) (i : Instr) (s t : State) (rest : List Byte), i.wf = true → i.dir = .toBlock →
    s.input = [] → s.lineIdleAns = [] → s.randomAns = [] → execFor P i s = .next t →
    traceStepFor P { s with input := traceEntry i s t ++ rest } = .next { t with input := rest } ∧
    (returnBytes i t = [] → stepFor P { s with input := traceEntry i s t ++ rest } = .next { t with input := rest })
end

