-- ==== Sys2Proof/Laws/Decode.lean ====
section
/-!
SUPPORT. The laws of the operand fields of a record (30_encoding.md R97): a field's bytes and its value determine each
other, and what a reading of a field that ends in a record has read.
-/

namespace Sys2Proof

theorem half_of_bytes (v : Half) : half (v.extractLsb' 8 8) (v.extractLsb' 0 8) = v := by
  unfold half
  apply BitVec.eq_of_getLsbD_eq
  intro i hi
  simp
  grind

theorem word_of_bytes (v : Word) :
    word (v.extractLsb' 24 8) (v.extractLsb' 16 8) (v.extractLsb' 8 8) (v.extractLsb' 0 8) = v := by
  unfold word
  apply BitVec.eq_of_getLsbD_eq
  intro i hi
  simp
  grind

theorem halfBytes_half (hi lo : Byte) : halfBytes (half hi lo) = [hi, lo] := by
  have h1 : (half hi lo).extractLsb' 8 8 = hi := by
    unfold half
    apply BitVec.eq_of_getLsbD_eq
    intro i hi
    simp
    grind
  have h0 : (half hi lo).extractLsb' 0 8 = lo := by
    unfold half
    apply BitVec.eq_of_getLsbD_eq
    intro i hi
    simp
    grind
  rw [halfBytes, h1, h0]

theorem wordBytes_word (b3 b2 b1 b0 : Byte) : wordBytes (word b3 b2 b1 b0) = [b3, b2, b1, b0] := by
  have h3 : (word b3 b2 b1 b0).extractLsb' 24 8 = b3 := by
    unfold word
    apply BitVec.eq_of_getLsbD_eq
    intro i hi
    simp
    grind
  have h2 : (word b3 b2 b1 b0).extractLsb' 16 8 = b2 := by
    unfold word
    apply BitVec.eq_of_getLsbD_eq
    intro i hi
    simp
    grind
  have h1 : (word b3 b2 b1 b0).extractLsb' 8 8 = b1 := by
    unfold word
    apply BitVec.eq_of_getLsbD_eq
    intro i hi
    simp
    grind
  have h0 : (word b3 b2 b1 b0).extractLsb' 0 8 = b0 := by
    unfold word
    apply BitVec.eq_of_getLsbD_eq
    intro i hi
    simp
    grind
  rw [wordBytes, h3, h2, h1, h0]

/-- A payload of the length its `len` says is read whole, whatever bytes follow it. -/
theorem withPayload_append {len : Half} {payload : List Byte} (rest : List Byte)
    (k : List Byte → List Byte → Decoded) (h : payload.length = len.toNat) :
    withPayload len (payload ++ rest) k = k payload rest := by
  unfold withPayload
  rw [if_pos (by rw [List.length_append]; omega), ← h, List.take_left' rfl, List.drop_left' rfl]

theorem withByte_eq_record {bs : List Byte} {k : Byte → List Byte → Decoded} {i : Instr} {rest : List Byte}
    (h : withByte bs k = .record i rest) : ∃ b r, bs = b :: r ∧ k b r = .record i rest := by
  unfold withByte at h
  split at h
  · exact ⟨_, _, rfl, h⟩
  · simp at h

theorem withHalf_eq_record {bs : List Byte} {k : Half → List Byte → Decoded} {i : Instr} {rest : List Byte}
    (h : withHalf bs k = .record i rest) : ∃ v r, bs = halfBytes v ++ r ∧ k v r = .record i rest := by
  unfold withHalf at h
  split at h
  · next hi lo r => exact ⟨_, r, by rw [halfBytes_half]; rfl, h⟩
  · simp at h

theorem withWord_eq_record {bs : List Byte} {k : Word → List Byte → Decoded} {i : Instr} {rest : List Byte}
    (h : withWord bs k = .record i rest) : ∃ v r, bs = wordBytes v ++ r ∧ k v r = .record i rest := by
  unfold withWord at h
  split at h
  · next b3 b2 b1 b0 r => exact ⟨_, r, by rw [wordBytes_word]; rfl, h⟩
  · simp at h

theorem withPayload_eq_record {len : Half} {bs : List Byte} {k : List Byte → List Byte → Decoded} {i : Instr}
    {rest : List Byte} (h : withPayload len bs k = .record i rest) :
    ∃ p r, bs = p ++ r ∧ p.length = len.toNat ∧ k p r = .record i rest := by
  unfold withPayload at h
  split at h
  · next hl => exact ⟨_, _, (List.take_append_drop _ _).symm, by simp; omega, h⟩
  · simp at h

end Sys2Proof
end

