-- ==== Sys2Proof/Laws/State.lean ====
section
/-!
SUPPORT. What each shared update does to each field of the state: one lemma per field per update, so that no later
proof unfolds a record update. The two updates that branch on `running` (`enterIdle`, `completeSend`) are
reduced to their two closed forms.
-/

namespace Sys2Proof.Machine

/-! ### `emit` -/

@[simp] theorem emit_bitTicks (o : Output) (s : State) : (emit o s).bitTicks = s.bitTicks := rfl
@[simp] theorem emit_ifgTicks (o : Output) (s : State) : (emit o s).ifgTicks = s.ifgTicks := rfl
@[simp] theorem emit_jamTicks (o : Output) (s : State) : (emit o s).jamTicks = s.jamTicks := rfl
@[simp] theorem emit_backoffMin (o : Output) (s : State) : (emit o s).backoffMin = s.backoffMin := rfl
@[simp] theorem emit_backoffMax (o : Output) (s : State) : (emit o s).backoffMax = s.backoffMax := rfl
@[simp] theorem emit_maxRetries (o : Output) (s : State) : (emit o s).maxRetries = s.maxRetries := rfl
@[simp] theorem emit_localAddr (o : Output) (s : State) : (emit o s).localAddr = s.localAddr := rfl
@[simp] theorem emit_bcastAddr (o : Output) (s : State) : (emit o s).bcastAddr = s.bcastAddr := rfl
@[simp] theorem emit_maxPayload (o : Output) (s : State) : (emit o s).maxPayload = s.maxPayload := rfl
@[simp] theorem emit_cfgValid (o : Output) (s : State) : (emit o s).cfgValid = s.cfgValid := rfl
@[simp] theorem emit_fault (o : Output) (s : State) : (emit o s).fault = s.fault := rfl
@[simp] theorem emit_cfgErr (o : Output) (s : State) : (emit o s).cfgErr = s.cfgErr := rfl
@[simp] theorem emit_phase (o : Output) (s : State) : (emit o s).phase = s.phase := rfl
@[simp] theorem emit_idx (o : Output) (s : State) : (emit o s).idx = s.idx := rfl
@[simp] theorem emit_sendPending (o : Output) (s : State) : (emit o s).sendPending = s.sendPending := rfl
@[simp] theorem emit_rxOvf (o : Output) (s : State) : (emit o s).rxOvf = s.rxOvf := rfl
@[simp] theorem emit_txen (o : Output) (s : State) : (emit o s).txen = s.txen := rfl
@[simp] theorem emit_timer (o : Output) (s : State) : (emit o s).timer = s.timer := rfl
@[simp] theorem emit_retry (o : Output) (s : State) : (emit o s).retry = s.retry := rfl
@[simp] theorem emit_txDst (o : Output) (s : State) : (emit o s).txDst = s.txDst := rfl
@[simp] theorem emit_txLen (o : Output) (s : State) : (emit o s).txLen = s.txLen := rfl
@[simp] theorem emit_txPay (o : Output) (s : State) : (emit o s).txPay = s.txPay := rfl
@[simp] theorem emit_buf (o : Output) (s : State) : (emit o s).buf = s.buf := rfl
@[simp] theorem emit_bufLen (o : Output) (s : State) : (emit o s).bufLen = s.bufLen := rfl
@[simp] theorem emit_input (o : Output) (s : State) : (emit o s).input = s.input := rfl
@[simp] theorem emit_lineIdleAns (o : Output) (s : State) : (emit o s).lineIdleAns = s.lineIdleAns := rfl
@[simp] theorem emit_randomAns (o : Output) (s : State) : (emit o s).randomAns = s.randomAns := rfl
@[simp] theorem emit_asked (o : Output) (s : State) : (emit o s).asked = s.asked := rfl
@[simp] theorem emit_out (o : Output) (s : State) : (emit o s).out = s.out ++ [o] := rfl
@[simp] theorem emit_ret (o : Output) (s : State) : (emit o s).ret = s.ret := rfl
@[simp] theorem emit_running (o : Output) (s : State) : running (emit o s) = running s := rfl

/-! ### `returns` -/

@[simp] theorem returns_bitTicks (v : Word) (s : State) : (returns v s).bitTicks = s.bitTicks := rfl
@[simp] theorem returns_ifgTicks (v : Word) (s : State) : (returns v s).ifgTicks = s.ifgTicks := rfl
@[simp] theorem returns_jamTicks (v : Word) (s : State) : (returns v s).jamTicks = s.jamTicks := rfl
@[simp] theorem returns_backoffMin (v : Word) (s : State) : (returns v s).backoffMin = s.backoffMin := rfl
@[simp] theorem returns_backoffMax (v : Word) (s : State) : (returns v s).backoffMax = s.backoffMax := rfl
@[simp] theorem returns_maxRetries (v : Word) (s : State) : (returns v s).maxRetries = s.maxRetries := rfl
@[simp] theorem returns_localAddr (v : Word) (s : State) : (returns v s).localAddr = s.localAddr := rfl
@[simp] theorem returns_bcastAddr (v : Word) (s : State) : (returns v s).bcastAddr = s.bcastAddr := rfl
@[simp] theorem returns_maxPayload (v : Word) (s : State) : (returns v s).maxPayload = s.maxPayload := rfl
@[simp] theorem returns_cfgValid (v : Word) (s : State) : (returns v s).cfgValid = s.cfgValid := rfl
@[simp] theorem returns_fault (v : Word) (s : State) : (returns v s).fault = s.fault := rfl
@[simp] theorem returns_cfgErr (v : Word) (s : State) : (returns v s).cfgErr = s.cfgErr := rfl
@[simp] theorem returns_phase (v : Word) (s : State) : (returns v s).phase = s.phase := rfl
@[simp] theorem returns_idx (v : Word) (s : State) : (returns v s).idx = s.idx := rfl
@[simp] theorem returns_sendPending (v : Word) (s : State) : (returns v s).sendPending = s.sendPending := rfl
@[simp] theorem returns_rxOvf (v : Word) (s : State) : (returns v s).rxOvf = s.rxOvf := rfl
@[simp] theorem returns_txen (v : Word) (s : State) : (returns v s).txen = s.txen := rfl
@[simp] theorem returns_timer (v : Word) (s : State) : (returns v s).timer = s.timer := rfl
@[simp] theorem returns_retry (v : Word) (s : State) : (returns v s).retry = s.retry := rfl
@[simp] theorem returns_txDst (v : Word) (s : State) : (returns v s).txDst = s.txDst := rfl
@[simp] theorem returns_txLen (v : Word) (s : State) : (returns v s).txLen = s.txLen := rfl
@[simp] theorem returns_txPay (v : Word) (s : State) : (returns v s).txPay = s.txPay := rfl
@[simp] theorem returns_buf (v : Word) (s : State) : (returns v s).buf = s.buf := rfl
@[simp] theorem returns_bufLen (v : Word) (s : State) : (returns v s).bufLen = s.bufLen := rfl
@[simp] theorem returns_input (v : Word) (s : State) : (returns v s).input = s.input := rfl
@[simp] theorem returns_lineIdleAns (v : Word) (s : State) : (returns v s).lineIdleAns = s.lineIdleAns := rfl
@[simp] theorem returns_randomAns (v : Word) (s : State) : (returns v s).randomAns = s.randomAns := rfl
@[simp] theorem returns_asked (v : Word) (s : State) : (returns v s).asked = s.asked := rfl
@[simp] theorem returns_out (v : Word) (s : State) : (returns v s).out = s.out := rfl
@[simp] theorem returns_ret (v : Word) (s : State) : (returns v s).ret = some v := rfl
@[simp] theorem returns_running (v : Word) (s : State) : running (returns v s) = running s := rfl

/-! ### `armTimer` -/

@[simp] theorem armTimer_bitTicks (d : Word) (s : State) : (armTimer d s).bitTicks = s.bitTicks := rfl
@[simp] theorem armTimer_ifgTicks (d : Word) (s : State) : (armTimer d s).ifgTicks = s.ifgTicks := rfl
@[simp] theorem armTimer_jamTicks (d : Word) (s : State) : (armTimer d s).jamTicks = s.jamTicks := rfl
@[simp] theorem armTimer_backoffMin (d : Word) (s : State) : (armTimer d s).backoffMin = s.backoffMin := rfl
@[simp] theorem armTimer_backoffMax (d : Word) (s : State) : (armTimer d s).backoffMax = s.backoffMax := rfl
@[simp] theorem armTimer_maxRetries (d : Word) (s : State) : (armTimer d s).maxRetries = s.maxRetries := rfl
@[simp] theorem armTimer_localAddr (d : Word) (s : State) : (armTimer d s).localAddr = s.localAddr := rfl
@[simp] theorem armTimer_bcastAddr (d : Word) (s : State) : (armTimer d s).bcastAddr = s.bcastAddr := rfl
@[simp] theorem armTimer_maxPayload (d : Word) (s : State) : (armTimer d s).maxPayload = s.maxPayload := rfl
@[simp] theorem armTimer_cfgValid (d : Word) (s : State) : (armTimer d s).cfgValid = s.cfgValid := rfl
@[simp] theorem armTimer_fault (d : Word) (s : State) : (armTimer d s).fault = s.fault := rfl
@[simp] theorem armTimer_cfgErr (d : Word) (s : State) : (armTimer d s).cfgErr = s.cfgErr := rfl
@[simp] theorem armTimer_phase (d : Word) (s : State) : (armTimer d s).phase = s.phase := rfl
@[simp] theorem armTimer_idx (d : Word) (s : State) : (armTimer d s).idx = s.idx := rfl
@[simp] theorem armTimer_sendPending (d : Word) (s : State) : (armTimer d s).sendPending = s.sendPending := rfl
@[simp] theorem armTimer_rxOvf (d : Word) (s : State) : (armTimer d s).rxOvf = s.rxOvf := rfl
@[simp] theorem armTimer_txen (d : Word) (s : State) : (armTimer d s).txen = s.txen := rfl
@[simp] theorem armTimer_timer (d : Word) (s : State) : (armTimer d s).timer = d := rfl
@[simp] theorem armTimer_retry (d : Word) (s : State) : (armTimer d s).retry = s.retry := rfl
@[simp] theorem armTimer_txDst (d : Word) (s : State) : (armTimer d s).txDst = s.txDst := rfl
@[simp] theorem armTimer_txLen (d : Word) (s : State) : (armTimer d s).txLen = s.txLen := rfl
@[simp] theorem armTimer_txPay (d : Word) (s : State) : (armTimer d s).txPay = s.txPay := rfl
@[simp] theorem armTimer_buf (d : Word) (s : State) : (armTimer d s).buf = s.buf := rfl
@[simp] theorem armTimer_bufLen (d : Word) (s : State) : (armTimer d s).bufLen = s.bufLen := rfl
@[simp] theorem armTimer_input (d : Word) (s : State) : (armTimer d s).input = s.input := rfl
@[simp] theorem armTimer_lineIdleAns (d : Word) (s : State) : (armTimer d s).lineIdleAns = s.lineIdleAns := rfl
@[simp] theorem armTimer_randomAns (d : Word) (s : State) : (armTimer d s).randomAns = s.randomAns := rfl
@[simp] theorem armTimer_asked (d : Word) (s : State) : (armTimer d s).asked = s.asked := rfl
@[simp] theorem armTimer_out (d : Word) (s : State) : (armTimer d s).out = s.out := rfl
@[simp] theorem armTimer_ret (d : Word) (s : State) : (armTimer d s).ret = s.ret := rfl
@[simp] theorem armTimer_running (d : Word) (s : State) : running (armTimer d s) = running s := rfl

/-! ### `disarmTimer` -/

@[simp] theorem disarmTimer_bitTicks (s : State) : (disarmTimer s).bitTicks = s.bitTicks := rfl
@[simp] theorem disarmTimer_ifgTicks (s : State) : (disarmTimer s).ifgTicks = s.ifgTicks := rfl
@[simp] theorem disarmTimer_jamTicks (s : State) : (disarmTimer s).jamTicks = s.jamTicks := rfl
@[simp] theorem disarmTimer_backoffMin (s : State) : (disarmTimer s).backoffMin = s.backoffMin := rfl
@[simp] theorem disarmTimer_backoffMax (s : State) : (disarmTimer s).backoffMax = s.backoffMax := rfl
@[simp] theorem disarmTimer_maxRetries (s : State) : (disarmTimer s).maxRetries = s.maxRetries := rfl
@[simp] theorem disarmTimer_localAddr (s : State) : (disarmTimer s).localAddr = s.localAddr := rfl
@[simp] theorem disarmTimer_bcastAddr (s : State) : (disarmTimer s).bcastAddr = s.bcastAddr := rfl
@[simp] theorem disarmTimer_maxPayload (s : State) : (disarmTimer s).maxPayload = s.maxPayload := rfl
@[simp] theorem disarmTimer_cfgValid (s : State) : (disarmTimer s).cfgValid = s.cfgValid := rfl
@[simp] theorem disarmTimer_fault (s : State) : (disarmTimer s).fault = s.fault := rfl
@[simp] theorem disarmTimer_cfgErr (s : State) : (disarmTimer s).cfgErr = s.cfgErr := rfl
@[simp] theorem disarmTimer_phase (s : State) : (disarmTimer s).phase = s.phase := rfl
@[simp] theorem disarmTimer_idx (s : State) : (disarmTimer s).idx = s.idx := rfl
@[simp] theorem disarmTimer_sendPending (s : State) : (disarmTimer s).sendPending = s.sendPending := rfl
@[simp] theorem disarmTimer_rxOvf (s : State) : (disarmTimer s).rxOvf = s.rxOvf := rfl
@[simp] theorem disarmTimer_txen (s : State) : (disarmTimer s).txen = s.txen := rfl
@[simp] theorem disarmTimer_timer (s : State) : (disarmTimer s).timer = 0 := rfl
@[simp] theorem disarmTimer_retry (s : State) : (disarmTimer s).retry = s.retry := rfl
@[simp] theorem disarmTimer_txDst (s : State) : (disarmTimer s).txDst = s.txDst := rfl
@[simp] theorem disarmTimer_txLen (s : State) : (disarmTimer s).txLen = s.txLen := rfl
@[simp] theorem disarmTimer_txPay (s : State) : (disarmTimer s).txPay = s.txPay := rfl
@[simp] theorem disarmTimer_buf (s : State) : (disarmTimer s).buf = s.buf := rfl
@[simp] theorem disarmTimer_bufLen (s : State) : (disarmTimer s).bufLen = s.bufLen := rfl
@[simp] theorem disarmTimer_input (s : State) : (disarmTimer s).input = s.input := rfl
@[simp] theorem disarmTimer_lineIdleAns (s : State) : (disarmTimer s).lineIdleAns = s.lineIdleAns := rfl
@[simp] theorem disarmTimer_randomAns (s : State) : (disarmTimer s).randomAns = s.randomAns := rfl
@[simp] theorem disarmTimer_asked (s : State) : (disarmTimer s).asked = s.asked := rfl
@[simp] theorem disarmTimer_out (s : State) : (disarmTimer s).out = s.out := rfl
@[simp] theorem disarmTimer_ret (s : State) : (disarmTimer s).ret = s.ret := rfl
@[simp] theorem disarmTimer_running (s : State) : running (disarmTimer s) = running s := rfl

/-! ### `enterSensing` -/

@[simp] theorem enterSensing_bitTicks (s : State) : (enterSensing s).bitTicks = s.bitTicks := rfl
@[simp] theorem enterSensing_ifgTicks (s : State) : (enterSensing s).ifgTicks = s.ifgTicks := rfl
@[simp] theorem enterSensing_jamTicks (s : State) : (enterSensing s).jamTicks = s.jamTicks := rfl
@[simp] theorem enterSensing_backoffMin (s : State) : (enterSensing s).backoffMin = s.backoffMin := rfl
@[simp] theorem enterSensing_backoffMax (s : State) : (enterSensing s).backoffMax = s.backoffMax := rfl
@[simp] theorem enterSensing_maxRetries (s : State) : (enterSensing s).maxRetries = s.maxRetries := rfl
@[simp] theorem enterSensing_localAddr (s : State) : (enterSensing s).localAddr = s.localAddr := rfl
@[simp] theorem enterSensing_bcastAddr (s : State) : (enterSensing s).bcastAddr = s.bcastAddr := rfl
@[simp] theorem enterSensing_maxPayload (s : State) : (enterSensing s).maxPayload = s.maxPayload := rfl
@[simp] theorem enterSensing_cfgValid (s : State) : (enterSensing s).cfgValid = s.cfgValid := rfl
@[simp] theorem enterSensing_fault (s : State) : (enterSensing s).fault = s.fault := rfl
@[simp] theorem enterSensing_cfgErr (s : State) : (enterSensing s).cfgErr = s.cfgErr := rfl
@[simp] theorem enterSensing_phase (s : State) : (enterSensing s).phase = .sensingCarrier := rfl
@[simp] theorem enterSensing_idx (s : State) : (enterSensing s).idx = s.idx := rfl
@[simp] theorem enterSensing_sendPending (s : State) : (enterSensing s).sendPending = s.sendPending := rfl
@[simp] theorem enterSensing_rxOvf (s : State) : (enterSensing s).rxOvf = s.rxOvf := rfl
@[simp] theorem enterSensing_txen (s : State) : (enterSensing s).txen = s.txen := rfl
@[simp] theorem enterSensing_timer (s : State) : (enterSensing s).timer = s.ifgTicks := rfl
@[simp] theorem enterSensing_retry (s : State) : (enterSensing s).retry = s.retry := rfl
@[simp] theorem enterSensing_txDst (s : State) : (enterSensing s).txDst = s.txDst := rfl
@[simp] theorem enterSensing_txLen (s : State) : (enterSensing s).txLen = s.txLen := rfl
@[simp] theorem enterSensing_txPay (s : State) : (enterSensing s).txPay = s.txPay := rfl
@[simp] theorem enterSensing_buf (s : State) : (enterSensing s).buf = s.buf := rfl
@[simp] theorem enterSensing_bufLen (s : State) : (enterSensing s).bufLen = s.bufLen := rfl
@[simp] theorem enterSensing_input (s : State) : (enterSensing s).input = s.input := rfl
@[simp] theorem enterSensing_lineIdleAns (s : State) : (enterSensing s).lineIdleAns = s.lineIdleAns := rfl
@[simp] theorem enterSensing_randomAns (s : State) : (enterSensing s).randomAns = s.randomAns := rfl
@[simp] theorem enterSensing_asked (s : State) : (enterSensing s).asked = s.asked := rfl
@[simp] theorem enterSensing_out (s : State) : (enterSensing s).out = s.out := rfl
@[simp] theorem enterSensing_ret (s : State) : (enterSensing s).ret = s.ret := rfl
@[simp] theorem enterSensing_running (s : State) : running (enterSensing s) = running s := rfl

/-! ### `clearSession` -/

@[simp] theorem clearSession_bitTicks (s : State) : (clearSession s).bitTicks = s.bitTicks := rfl
@[simp] theorem clearSession_ifgTicks (s : State) : (clearSession s).ifgTicks = s.ifgTicks := rfl
@[simp] theorem clearSession_jamTicks (s : State) : (clearSession s).jamTicks = s.jamTicks := rfl
@[simp] theorem clearSession_backoffMin (s : State) : (clearSession s).backoffMin = s.backoffMin := rfl
@[simp] theorem clearSession_backoffMax (s : State) : (clearSession s).backoffMax = s.backoffMax := rfl
@[simp] theorem clearSession_maxRetries (s : State) : (clearSession s).maxRetries = s.maxRetries := rfl
@[simp] theorem clearSession_localAddr (s : State) : (clearSession s).localAddr = s.localAddr := rfl
@[simp] theorem clearSession_bcastAddr (s : State) : (clearSession s).bcastAddr = s.bcastAddr := rfl
@[simp] theorem clearSession_maxPayload (s : State) : (clearSession s).maxPayload = s.maxPayload := rfl
@[simp] theorem clearSession_cfgValid (s : State) : (clearSession s).cfgValid = s.cfgValid := rfl
@[simp] theorem clearSession_fault (s : State) : (clearSession s).fault = s.fault := rfl
@[simp] theorem clearSession_cfgErr (s : State) : (clearSession s).cfgErr = s.cfgErr := rfl
@[simp] theorem clearSession_phase (s : State) : (clearSession s).phase = .idle := rfl
@[simp] theorem clearSession_idx (s : State) : (clearSession s).idx = 0 := rfl
@[simp] theorem clearSession_sendPending (s : State) : (clearSession s).sendPending = s.sendPending := rfl
@[simp] theorem clearSession_rxOvf (s : State) : (clearSession s).rxOvf = false := rfl
@[simp] theorem clearSession_txen (s : State) : (clearSession s).txen = s.txen := rfl
@[simp] theorem clearSession_timer (s : State) : (clearSession s).timer = 0 := rfl
@[simp] theorem clearSession_retry (s : State) : (clearSession s).retry = s.retry := rfl
@[simp] theorem clearSession_txDst (s : State) : (clearSession s).txDst = s.txDst := rfl
@[simp] theorem clearSession_txLen (s : State) : (clearSession s).txLen = s.txLen := rfl
@[simp] theorem clearSession_txPay (s : State) : (clearSession s).txPay = s.txPay := rfl
@[simp] theorem clearSession_buf (s : State) : (clearSession s).buf = s.buf := rfl
@[simp] theorem clearSession_bufLen (s : State) : (clearSession s).bufLen = 0 := rfl
@[simp] theorem clearSession_input (s : State) : (clearSession s).input = s.input := rfl
@[simp] theorem clearSession_lineIdleAns (s : State) : (clearSession s).lineIdleAns = s.lineIdleAns := rfl
@[simp] theorem clearSession_randomAns (s : State) : (clearSession s).randomAns = s.randomAns := rfl
@[simp] theorem clearSession_asked (s : State) : (clearSession s).asked = s.asked := rfl
@[simp] theorem clearSession_out (s : State) : (clearSession s).out = s.out := rfl
@[simp] theorem clearSession_ret (s : State) : (clearSession s).ret = s.ret := rfl
@[simp] theorem clearSession_running (s : State) : running (clearSession s) = running s := rfl

/-! ### `enterReceiving` -/

@[simp] theorem enterReceiving_bitTicks (s : State) : (enterReceiving s).bitTicks = s.bitTicks := rfl
@[simp] theorem enterReceiving_ifgTicks (s : State) : (enterReceiving s).ifgTicks = s.ifgTicks := rfl
@[simp] theorem enterReceiving_jamTicks (s : State) : (enterReceiving s).jamTicks = s.jamTicks := rfl
@[simp] theorem enterReceiving_backoffMin (s : State) : (enterReceiving s).backoffMin = s.backoffMin := rfl
@[simp] theorem enterReceiving_backoffMax (s : State) : (enterReceiving s).backoffMax = s.backoffMax := rfl
@[simp] theorem enterReceiving_maxRetries (s : State) : (enterReceiving s).maxRetries = s.maxRetries := rfl
@[simp] theorem enterReceiving_localAddr (s : State) : (enterReceiving s).localAddr = s.localAddr := rfl
@[simp] theorem enterReceiving_bcastAddr (s : State) : (enterReceiving s).bcastAddr = s.bcastAddr := rfl
@[simp] theorem enterReceiving_maxPayload (s : State) : (enterReceiving s).maxPayload = s.maxPayload := rfl
@[simp] theorem enterReceiving_cfgValid (s : State) : (enterReceiving s).cfgValid = s.cfgValid := rfl
@[simp] theorem enterReceiving_fault (s : State) : (enterReceiving s).fault = s.fault := rfl
@[simp] theorem enterReceiving_cfgErr (s : State) : (enterReceiving s).cfgErr = s.cfgErr := rfl
@[simp] theorem enterReceiving_phase (s : State) : (enterReceiving s).phase = .receiving := rfl
@[simp] theorem enterReceiving_idx (s : State) : (enterReceiving s).idx = s.idx := rfl
@[simp] theorem enterReceiving_sendPending (s : State) : (enterReceiving s).sendPending = s.sendPending := rfl
@[simp] theorem enterReceiving_rxOvf (s : State) : (enterReceiving s).rxOvf = false := rfl
@[simp] theorem enterReceiving_txen (s : State) : (enterReceiving s).txen = s.txen := rfl
@[simp] theorem enterReceiving_timer (s : State) : (enterReceiving s).timer = s.ifgTicks := rfl
@[simp] theorem enterReceiving_retry (s : State) : (enterReceiving s).retry = s.retry := rfl
@[simp] theorem enterReceiving_txDst (s : State) : (enterReceiving s).txDst = s.txDst := rfl
@[simp] theorem enterReceiving_txLen (s : State) : (enterReceiving s).txLen = s.txLen := rfl
@[simp] theorem enterReceiving_txPay (s : State) : (enterReceiving s).txPay = s.txPay := rfl
@[simp] theorem enterReceiving_buf (s : State) : (enterReceiving s).buf = s.buf := rfl
@[simp] theorem enterReceiving_bufLen (s : State) : (enterReceiving s).bufLen = 0 := rfl
@[simp] theorem enterReceiving_input (s : State) : (enterReceiving s).input = s.input := rfl
@[simp] theorem enterReceiving_lineIdleAns (s : State) : (enterReceiving s).lineIdleAns = s.lineIdleAns := rfl
@[simp] theorem enterReceiving_randomAns (s : State) : (enterReceiving s).randomAns = s.randomAns := rfl
@[simp] theorem enterReceiving_asked (s : State) : (enterReceiving s).asked = s.asked := rfl
@[simp] theorem enterReceiving_out (s : State) : (enterReceiving s).out = s.out := rfl
@[simp] theorem enterReceiving_ret (s : State) : (enterReceiving s).ret = s.ret := rfl
@[simp] theorem enterReceiving_running (s : State) : running (enterReceiving s) = running s := rfl

/-! ### `enterJamming` -/

@[simp] theorem enterJamming_bitTicks (s : State) : (enterJamming s).bitTicks = s.bitTicks := rfl
@[simp] theorem enterJamming_ifgTicks (s : State) : (enterJamming s).ifgTicks = s.ifgTicks := rfl
@[simp] theorem enterJamming_jamTicks (s : State) : (enterJamming s).jamTicks = s.jamTicks := rfl
@[simp] theorem enterJamming_backoffMin (s : State) : (enterJamming s).backoffMin = s.backoffMin := rfl
@[simp] theorem enterJamming_backoffMax (s : State) : (enterJamming s).backoffMax = s.backoffMax := rfl
@[simp] theorem enterJamming_maxRetries (s : State) : (enterJamming s).maxRetries = s.maxRetries := rfl
@[simp] theorem enterJamming_localAddr (s : State) : (enterJamming s).localAddr = s.localAddr := rfl
@[simp] theorem enterJamming_bcastAddr (s : State) : (enterJamming s).bcastAddr = s.bcastAddr := rfl
@[simp] theorem enterJamming_maxPayload (s : State) : (enterJamming s).maxPayload = s.maxPayload := rfl
@[simp] theorem enterJamming_cfgValid (s : State) : (enterJamming s).cfgValid = s.cfgValid := rfl
@[simp] theorem enterJamming_fault (s : State) : (enterJamming s).fault = s.fault := rfl
@[simp] theorem enterJamming_cfgErr (s : State) : (enterJamming s).cfgErr = s.cfgErr := rfl
@[simp] theorem enterJamming_phase (s : State) : (enterJamming s).phase = .jamming := rfl
@[simp] theorem enterJamming_idx (s : State) : (enterJamming s).idx = s.idx := rfl
@[simp] theorem enterJamming_sendPending (s : State) : (enterJamming s).sendPending = s.sendPending := rfl
@[simp] theorem enterJamming_rxOvf (s : State) : (enterJamming s).rxOvf = s.rxOvf := rfl
@[simp] theorem enterJamming_txen (s : State) : (enterJamming s).txen = s.txen := rfl
@[simp] theorem enterJamming_timer (s : State) : (enterJamming s).timer = s.jamTicks := rfl
@[simp] theorem enterJamming_retry (s : State) : (enterJamming s).retry = s.retry := rfl
@[simp] theorem enterJamming_txDst (s : State) : (enterJamming s).txDst = s.txDst := rfl
@[simp] theorem enterJamming_txLen (s : State) : (enterJamming s).txLen = s.txLen := rfl
@[simp] theorem enterJamming_txPay (s : State) : (enterJamming s).txPay = s.txPay := rfl
@[simp] theorem enterJamming_buf (s : State) : (enterJamming s).buf = s.buf := rfl
@[simp] theorem enterJamming_bufLen (s : State) : (enterJamming s).bufLen = s.bufLen := rfl
@[simp] theorem enterJamming_input (s : State) : (enterJamming s).input = s.input := rfl
@[simp] theorem enterJamming_lineIdleAns (s : State) : (enterJamming s).lineIdleAns = s.lineIdleAns := rfl
@[simp] theorem enterJamming_randomAns (s : State) : (enterJamming s).randomAns = s.randomAns := rfl
@[simp] theorem enterJamming_asked (s : State) : (enterJamming s).asked = s.asked := rfl
@[simp] theorem enterJamming_out (s : State) : (enterJamming s).out = s.out ++ [.write delim] := rfl
@[simp] theorem enterJamming_ret (s : State) : (enterJamming s).ret = s.ret := rfl
@[simp] theorem enterJamming_running (s : State) : running (enterJamming s) = running s := rfl

/-! ### `enterIdle` and `completeSend` -/

/-- While running, `EnterIdle` goes on to listening in the same step (R172). -/
theorem enterIdle_of_running {s : State} (h : running s = true) :
    enterIdle s = { s with
      phase := .sensingCarrier, timer := s.ifgTicks, bufLen := 0, idx := 0, rxOvf := false } := by
  have h' : running (clearSession s) = true := h
  rw [enterIdle, if_pos h']
  rfl

/-- When not running, `EnterIdle` rests in `Idle`. -/
theorem enterIdle_of_not_running {s : State} (h : running s = false) : enterIdle s = clearSession s := by
  have h' : ¬running (clearSession s) = true := by simp [h]
  rw [enterIdle, if_neg h']

/-- While running, the end of a send leaves the block listening with no request (R192). -/
theorem completeSend_of_running (status : Byte) {s : State} (h : running s = true) :
    completeSend status s = { s with
      sendPending := false, retry := 0, out := s.out ++ [.senddone status],
      phase := .sensingCarrier, timer := s.ifgTicks, bufLen := 0, idx := 0, rxOvf := false } := by
  have h' : running (emit (.senddone status) { s with sendPending := false, retry := 0 }) = true := h
  rw [completeSend, enterIdle_of_running h']
  rfl

@[simp] theorem enterIdle_bitTicks (s : State) : (enterIdle s).bitTicks = s.bitTicks := by unfold enterIdle; split <;> rfl
@[simp] theorem enterIdle_ifgTicks (s : State) : (enterIdle s).ifgTicks = s.ifgTicks := by unfold enterIdle; split <;> rfl
@[simp] theorem enterIdle_jamTicks (s : State) : (enterIdle s).jamTicks = s.jamTicks := by unfold enterIdle; split <;> rfl
@[simp] theorem enterIdle_backoffMin (s : State) : (enterIdle s).backoffMin = s.backoffMin := by unfold enterIdle; split <;> rfl
@[simp] theorem enterIdle_backoffMax (s : State) : (enterIdle s).backoffMax = s.backoffMax := by unfold enterIdle; split <;> rfl
@[simp] theorem enterIdle_maxRetries (s : State) : (enterIdle s).maxRetries = s.maxRetries := by unfold enterIdle; split <;> rfl
@[simp] theorem enterIdle_localAddr (s : State) : (enterIdle s).localAddr = s.localAddr := by unfold enterIdle; split <;> rfl
@[simp] theorem enterIdle_bcastAddr (s : State) : (enterIdle s).bcastAddr = s.bcastAddr := by unfold enterIdle; split <;> rfl
@[simp] theorem enterIdle_maxPayload (s : State) : (enterIdle s).maxPayload = s.maxPayload := by unfold enterIdle; split <;> rfl
@[simp] theorem enterIdle_cfgValid (s : State) : (enterIdle s).cfgValid = s.cfgValid := by unfold enterIdle; split <;> rfl
@[simp] theorem enterIdle_fault (s : State) : (enterIdle s).fault = s.fault := by unfold enterIdle; split <;> rfl
@[simp] theorem enterIdle_cfgErr (s : State) : (enterIdle s).cfgErr = s.cfgErr := by unfold enterIdle; split <;> rfl
@[simp] theorem enterIdle_sendPending (s : State) : (enterIdle s).sendPending = s.sendPending := by unfold enterIdle; split <;> rfl
@[simp] theorem enterIdle_txen (s : State) : (enterIdle s).txen = s.txen := by unfold enterIdle; split <;> rfl
@[simp] theorem enterIdle_retry (s : State) : (enterIdle s).retry = s.retry := by unfold enterIdle; split <;> rfl
@[simp] theorem enterIdle_txDst (s : State) : (enterIdle s).txDst = s.txDst := by unfold enterIdle; split <;> rfl
@[simp] theorem enterIdle_txLen (s : State) : (enterIdle s).txLen = s.txLen := by unfold enterIdle; split <;> rfl
@[simp] theorem enterIdle_txPay (s : State) : (enterIdle s).txPay = s.txPay := by unfold enterIdle; split <;> rfl
@[simp] theorem enterIdle_buf (s : State) : (enterIdle s).buf = s.buf := by unfold enterIdle; split <;> rfl
@[simp] theorem enterIdle_input (s : State) : (enterIdle s).input = s.input := by unfold enterIdle; split <;> rfl
@[simp] theorem enterIdle_lineIdleAns (s : State) : (enterIdle s).lineIdleAns = s.lineIdleAns := by unfold enterIdle; split <;> rfl
@[simp] theorem enterIdle_randomAns (s : State) : (enterIdle s).randomAns = s.randomAns := by unfold enterIdle; split <;> rfl
@[simp] theorem enterIdle_asked (s : State) : (enterIdle s).asked = s.asked := by unfold enterIdle; split <;> rfl
@[simp] theorem enterIdle_out (s : State) : (enterIdle s).out = s.out := by unfold enterIdle; split <;> rfl
@[simp] theorem enterIdle_ret (s : State) : (enterIdle s).ret = s.ret := by unfold enterIdle; split <;> rfl
@[simp] theorem enterIdle_bufLen (s : State) : (enterIdle s).bufLen = 0 := by unfold enterIdle; split <;> rfl
@[simp] theorem enterIdle_idx (s : State) : (enterIdle s).idx = 0 := by unfold enterIdle; split <;> rfl
@[simp] theorem enterIdle_rxOvf (s : State) : (enterIdle s).rxOvf = false := by unfold enterIdle; split <;> rfl
@[simp] theorem enterIdle_running (s : State) : running (enterIdle s) = running s := by unfold enterIdle; split <;> rfl
@[simp] theorem completeSend_bitTicks (status : Byte) (s : State) :
    (completeSend status s).bitTicks = s.bitTicks := by simp [completeSend]
@[simp] theorem completeSend_ifgTicks (status : Byte) (s : State) :
    (completeSend status s).ifgTicks = s.ifgTicks := by simp [completeSend]
@[simp] theorem completeSend_jamTicks (status : Byte) (s : State) :
    (completeSend status s).jamTicks = s.jamTicks := by simp [completeSend]
@[simp] theorem completeSend_backoffMin (status : Byte) (s : State) :
    (completeSend status s).backoffMin = s.backoffMin := by simp [completeSend]
@[simp] theorem completeSend_backoffMax (status : Byte) (s : State) :
    (completeSend status s).backoffMax = s.backoffMax := by simp [completeSend]
@[simp] theorem completeSend_maxRetries (status : Byte) (s : State) :
    (completeSend status s).maxRetries = s.maxRetries := by simp [completeSend]
@[simp] theorem completeSend_localAddr (status : Byte) (s : State) :
    (completeSend status s).localAddr = s.localAddr := by simp [completeSend]
@[simp] theorem completeSend_bcastAddr (status : Byte) (s : State) :
    (completeSend status s).bcastAddr = s.bcastAddr := by simp [completeSend]
@[simp] theorem completeSend_maxPayload (status : Byte) (s : State) :
    (completeSend status s).maxPayload = s.maxPayload := by simp [completeSend]
@[simp] theorem completeSend_cfgValid (status : Byte) (s : State) :
    (completeSend status s).cfgValid = s.cfgValid := by simp [completeSend]
@[simp] theorem completeSend_fault (status : Byte) (s : State) :
    (completeSend status s).fault = s.fault := by simp [completeSend]
@[simp] theorem completeSend_cfgErr (status : Byte) (s : State) :
    (completeSend status s).cfgErr = s.cfgErr := by simp [completeSend]
@[simp] theorem completeSend_sendPending (status : Byte) (s : State) :
    (completeSend status s).sendPending = false := by simp [completeSend]
@[simp] theorem completeSend_txen (status : Byte) (s : State) :
    (completeSend status s).txen = s.txen := by simp [completeSend]
@[simp] theorem completeSend_retry (status : Byte) (s : State) :
    (completeSend status s).retry = 0 := by simp [completeSend]
@[simp] theorem completeSend_txDst (status : Byte) (s : State) :
    (completeSend status s).txDst = s.txDst := by simp [completeSend]
@[simp] theorem completeSend_txLen (status : Byte) (s : State) :
    (completeSend status s).txLen = s.txLen := by simp [completeSend]
@[simp] theorem completeSend_txPay (status : Byte) (s : State) :
    (completeSend status s).txPay = s.txPay := by simp [completeSend]
@[simp] theorem completeSend_buf (status : Byte) (s : State) :
    (completeSend status s).buf = s.buf := by simp [completeSend]
@[simp] theorem completeSend_input (status : Byte) (s : State) :
    (completeSend status s).input = s.input := by simp [completeSend]
@[simp] theorem completeSend_lineIdleAns (status : Byte) (s : State) :
    (completeSend status s).lineIdleAns = s.lineIdleAns := by simp [completeSend]
@[simp] theorem completeSend_randomAns (status : Byte) (s : State) :
    (completeSend status s).randomAns = s.randomAns := by simp [completeSend]
@[simp] theorem completeSend_asked (status : Byte) (s : State) :
    (completeSend status s).asked = s.asked := by simp [completeSend]
@[simp] theorem completeSend_idx (status : Byte) (s : State) :
    (completeSend status s).idx = 0 := by simp [completeSend]
@[simp] theorem completeSend_rxOvf (status : Byte) (s : State) :
    (completeSend status s).rxOvf = false := by simp [completeSend]
@[simp] theorem completeSend_bufLen (status : Byte) (s : State) :
    (completeSend status s).bufLen = 0 := by simp [completeSend]
@[simp] theorem completeSend_out (status : Byte) (s : State) :
    (completeSend status s).out = s.out ++ [.senddone status] := by simp [completeSend]
@[simp] theorem completeSend_ret (status : Byte) (s : State) :
    (completeSend status s).ret = s.ret := by simp [completeSend]

/-! ### `resetBlock` -/

/-- What `RESET` leaves (R290): every register at its reset value, and `TXEN(0)` emitted if the line was driven. -/
theorem resetBlock_eq (s : State) :
    resetBlock s = { State.reset with
      input := s.input, lineIdleAns := s.lineIdleAns, randomAns := s.randomAns, asked := s.asked,
      out := if s.txen = true then s.out ++ [.txen false] else s.out, ret := s.ret } := by
  unfold resetBlock
  split <;> rfl

/-! ### Outcomes -/

/-- A sequence ends in a next state exactly when both parts do. -/
theorem andThen_eq_next {r : Result} {f : State → Result} {t : State} :
    andThen r f = .next t ↔ ∃ s, r = .next s ∧ f s = .next t := by
  cases r <;> simp [andThen]

@[simp] theorem andThen_next (s : State) (f : State → Result) : andThen (.next s) f = f s := rfl
@[simp] theorem andThen_fault (e : Fault) (f : State → Result) : andThen (.fault e) f = .fault e := rfl
@[simp] theorem andThen_refused (e : Refusal) (f : State → Result) : andThen (.refused e) f = .refused e := rfl

end Sys2Proof.Machine
end

