-- ==== Sys2Proof/Laws/Memory.lean ====
section
/-!
SUPPORT. The laws of the byte memories: reading after a write, the frame of a write, the canonical form.
-/

namespace Sys2Proof.Machine

theorem Memory.read_write (m : Memory) (i : Nat) (b : Byte) (j : Nat) :
    Memory.read (Memory.write m i b) j = if j = i then some b else Memory.read m j := by
  induction m with
  | nil => simp [Memory.write, Memory.read]
  | cons c m ih =>
    obtain ⟨k, x⟩ := c
    simp only [Memory.write]
    split
    · simp [Memory.read]
    · split
      · subst_vars
        simp only [Memory.read]
        split <;> rfl
      · simp only [Memory.read, ih]
        split_ifs <;> first | rfl | omega

theorem Memory.read_write_same (m : Memory) (i : Nat) (b : Byte) : Memory.read (Memory.write m i b) i = some b := by
  simp [Memory.read_write]

theorem Memory.read_write_other (m : Memory) {i j : Nat} (b : Byte) (h : j ≠ i) :
    Memory.read (Memory.write m i b) j = Memory.read m j := by
  simp [Memory.read_write, h]

/-- Outside the bytes it stores, a write of bytes leaves every byte as it was. -/
theorem Memory.read_writeBytes_outside (bs : List Byte) (m : Memory) (i j : Nat) (h : j < i ∨ i + bs.length ≤ j) :
    Memory.read (Memory.writeBytes m i bs) j = Memory.read m j := by
  induction bs generalizing m i with
  | nil => rfl
  | cons b bs ih =>
    simp only [List.length_cons] at h
    rw [Memory.writeBytes, ih _ _ (by omega), Memory.read_write_other _ _ (by omega)]

/-- The bytes read back after a write of bytes are the bytes written. -/
theorem Memory.readBytes_writeBytes (bs : List Byte) (m : Memory) (i : Nat) :
    Memory.readBytes (Memory.writeBytes m i bs) i bs.length = some bs := by
  induction bs generalizing m i with
  | nil => rfl
  | cons b bs ih =>
    have h : Memory.read (Memory.writeBytes (Memory.write m i b) (i + 1) bs) i = some b := by
      rw [Memory.read_writeBytes_outside _ _ _ _ (by omega), Memory.read_write_same]
    simp [Memory.writeBytes, Memory.readBytes, h, ih]

/-- What is read depends on the bytes of the range alone. -/
theorem Memory.readBytes_congr {m m' : Memory} (n i : Nat)
    (h : ∀ j, i ≤ j → j < i + n → Memory.read m j = Memory.read m' j) :
    Memory.readBytes m i n = Memory.readBytes m' i n := by
  induction n generalizing i with
  | zero => rfl
  | succ n ih =>
    simp only [Memory.readBytes]
    rw [h i (by omega) (by omega), ih (i + 1) fun j hj hj' => h j (by omega) (by omega)]

theorem Memory.readBytes_length {m : Memory} {n i : Nat} {bs : List Byte} (h : Memory.readBytes m i n = some bs) :
    bs.length = n := by
  induction n generalizing i bs with
  | zero => simp_all [Memory.readBytes]
  | succ n ih =>
    simp only [Memory.readBytes] at h
    split at h
    · next hb hbs =>
      cases h
      simp [ih hbs]
    · simp at h

/-- The `k`-th byte of a range that reads as a list is the `k`-th of the list. -/
theorem Memory.read_of_readBytes {m : Memory} {n i : Nat} {bs : List Byte} (h : Memory.readBytes m i n = some bs)
    (k : Nat) (hk : k < n) : Memory.read m (i + k) = bs[k]? := by
  induction n generalizing i bs k with
  | zero => omega
  | succ n ih =>
    simp only [Memory.readBytes] at h
    split at h
    · next b bs' hb hbs =>
      cases h
      cases k with
      | zero => simpa using hb
      | succ k =>
        have := ih hbs k (by omega)
        simpa [Nat.add_assoc, Nat.add_comm 1 k] using this
    · simp at h

/-- Reading one byte more appends it. -/
theorem Memory.readBytes_succ {m : Memory} {n i : Nat} {bs : List Byte} {b : Byte}
    (h : Memory.readBytes m i n = some bs) (hb : Memory.read m (i + n) = some b) :
    Memory.readBytes m i (n + 1) = some (bs ++ [b]) := by
  induction n generalizing i bs with
  | zero =>
    simp only [Memory.readBytes, Option.some.injEq] at h
    subst h
    have hb' : Memory.read m i = some b := hb
    simp [Memory.readBytes, hb']
  | succ n ih =>
    simp only [Memory.readBytes] at h
    split at h
    · next c cs hc hcs =>
      cases h
      have := ih hcs (by simpa [Nat.add_assoc, Nat.add_comm 1 n] using hb)
      rw [Memory.readBytes, hc, this]
      rfl
    · simp at h

theorem Memory.write_keys (m : Memory) (i : Nat) (b : Byte) (c : Host.Cell) (h : c ∈ Memory.write m i b) :
    c.1 = i ∨ c ∈ m := by
  induction m with
  | nil =>
    simp only [Memory.write, List.mem_singleton] at h
    exact .inl (by rw [h])
  | cons d m ih =>
    obtain ⟨k, x⟩ := d
    simp only [Memory.write] at h
    split at h
    · rcases List.mem_cons.mp h with h | h
      · exact .inl (by rw [h])
      · exact .inr h
    · split at h
      · rcases List.mem_cons.mp h with h | h
        · exact .inl (by rw [h])
        · exact .inr (List.mem_cons_of_mem _ h)
      · rcases List.mem_cons.mp h with h | h
        · exact .inr (by rw [h]; exact List.mem_cons_self)
        · exact (ih h).imp_right (List.mem_cons_of_mem _)

/-- A write keeps the canonical form. -/
theorem Memory.write_wf {m : Memory} (h : Memory.wf m) (i : Nat) (b : Byte) : Memory.wf (Memory.write m i b) := by
  induction m with
  | nil => simp [Memory.write, Memory.wf]
  | cons c m ih =>
    obtain ⟨k, x⟩ := c
    have hm : Memory.wf m := (List.pairwise_cons.mp h).2
    have hk := (List.pairwise_cons.mp h).1
    simp only [Memory.write]
    split
    · refine List.pairwise_cons.mpr ⟨fun d hd => ?_, h⟩
      rcases List.mem_cons.mp hd with rfl | hd
      · assumption
      · have := hk d hd
        simp only at this ⊢
        omega
    · split
      · refine List.pairwise_cons.mpr ⟨fun d hd => ?_, hm⟩
        have := hk d hd
        simp only at this ⊢
        omega
      · refine List.pairwise_cons.mpr ⟨fun d hd => ?_, ih hm⟩
        rcases Memory.write_keys _ _ _ _ hd with hd | hd
        · simp only [hd]
          omega
        · exact hk d hd

theorem Memory.writeBytes_wf {m : Memory} (h : Memory.wf m) (i : Nat) (bs : List Byte) :
    Memory.wf (Memory.writeBytes m i bs) := by
  induction bs generalizing m i with
  | nil => exact h
  | cons b bs ih => exact ih (Memory.write_wf h i b) (i + 1)

/-- The memories of the reset state are canonical. -/
theorem reset_memories_wf : Memory.wf State.reset.txPay ∧ Memory.wf State.reset.buf := by
  decide

end Sys2Proof.Machine
end

