-- ==== Sys2Proof/Laws/Ops.lean ====
section
/-!
SUPPORT. One lemma per shared operation that says once everything it can do; the provers cite these instead of
unfolding the operations.
-/

namespace Sys2Proof.Machine

open Sys2Proof

/-! ### Running -/

theorem running_iff (s : State) : running s = true ↔ s.cfgValid = true ∧ s.fault = false := by
  simp [running]

theorem running_of_eq {s t : State} (hv : t.cfgValid = s.cfgValid) (hf : t.fault = s.fault) :
    running t = running s := by
  simp [running, hv, hf]

/-! ### What the views depend on -/

theorem validateConfig_of_same (P : Params) {s t : State} (h : SameConfiguration s t) :
    validateConfig P t = validateConfig P s := by
  obtain ⟨h1, h2, h3, h4, h5, h6, _, _, h9⟩ := h
  have r1 : rulePassesV1 t = rulePassesV1 s := by rw [rulePassesV1, rulePassesV1, h1]
  have r2 : rulePassesV2 P t = rulePassesV2 P s := by rw [rulePassesV2, rulePassesV2, charTicks, charTicks, h1, h2]
  have r3 : rulePassesV3 P t = rulePassesV3 P s := by rw [rulePassesV3, rulePassesV3, charTicks, charTicks, h1, h3]
  have r4 : rulePassesV4 t = rulePassesV4 s := by rw [rulePassesV4, rulePassesV4, h4, h5]
  have r5 : rulePassesV5 t = rulePassesV5 s := by rw [rulePassesV5, rulePassesV5, h5, h6]
  have r6 : rulePassesV6 P t = rulePassesV6 P s := by rw [rulePassesV6, rulePassesV6, h9]
  rw [validateConfig, validateConfig, r1, r2, r3, r4, r5, r6]

theorem sameConfiguration_refl (s : State) : SameConfiguration s s :=
  ⟨rfl, rfl, rfl, rfl, rfl, rfl, rfl, rfl, rfl⟩

theorem sameConfiguration_trans {s t u : State} (h : SameConfiguration s t) (h' : SameConfiguration t u) :
    SameConfiguration s u := by
  obtain ⟨a1, a2, a3, a4, a5, a6, a7, a8, a9⟩ := h
  obtain ⟨b1, b2, b3, b4, b5, b6, b7, b8, b9⟩ := h'
  exact ⟨b1.trans a1, b2.trans a2, b3.trans a3, b4.trans a4, b5.trans a5, b6.trans a6, b7.trans a7, b8.trans a8,
    b9.trans a9⟩

theorem rxLimit_of_eq {s t : State} (h : t.maxPayload = s.maxPayload) : rxLimit t = rxLimit s := by
  simp [rxLimit, h]

theorem txPayRead_of_eq {s t : State} (h : t.txPay = s.txPay) (h' : t.txLen = s.txLen) :
    txPayRead t = txPayRead s := by
  simp [txPayRead, h, h']

theorem bufBytes_of_eq {s t : State} (h : t.buf = s.buf) (h' : t.bufLen = s.bufLen) : bufBytes t = bufBytes s := by
  simp [bufBytes, h, h']

theorem bufRead_of_eq {s t : State} (h : t.buf = s.buf) (h' : t.bufLen = s.bufLen) (i : Nat) :
    bufRead t i = bufRead s i := by
  simp [bufRead, h, h']

theorem wireFrame_of_eq (P : Params) {s t : State} (h1 : t.txPay = s.txPay) (h2 : t.txLen = s.txLen)
    (h3 : t.maxPayload = s.maxPayload) (h4 : t.txDst = s.txDst) (h5 : t.localAddr = s.localAddr) :
    wireFrame P t = wireFrame P s := by
  simp [wireFrame, txPayRead_of_eq h1 h2, h3, h4, h5]

/-- A byte of the valid part of `BUF` is the byte of the list it reads as. -/
theorem bufRead_of_bufBytes {s : State} {w : List Byte} (h : bufBytes s = some w) (k : Nat)
    (hk : k < s.bufLen.toNat) : bufRead s k = w[k]? := by
  have := Memory.read_of_readBytes h k hk
  simpa [bufRead, hk] using this

theorem bufBytes_length {s : State} {w : List Byte} (h : bufBytes s = some w) : w.length = s.bufLen.toNat :=
  Memory.readBytes_length h

theorem txPayRead_length {s : State} {p : List Byte} (h : txPayRead s = some p) : p.length = s.txLen.toNat :=
  Memory.readBytes_length h

/-! ### Writes -/

theorem bufWrite_eq_next {P : Params} {i : Nat} {bs : List Byte} {s t : State} :
    bufWrite P i bs s = .next t ↔
      i + bs.length ≤ bufCap P ∧ t = { s with buf := Memory.writeBytes s.buf i bs } := by
  unfold bufWrite
  split <;> simp_all [eq_comm]

theorem txPayWrite_eq_next {P : Params} {bs : List Byte} {s t : State} :
    txPayWrite P bs s = .next t ↔
      bs.length ≤ P.payloadCap ∧ t = { s with txPay := Memory.writeBytes s.txPay 0 bs } := by
  unfold txPayWrite
  split <;> simp_all [eq_comm]

/-! ### Questions -/

/-- The answer of `askLineIdle` and the state it leaves are those of `LineIdleAnswered`, and no others. -/
theorem askLineIdle_eq {s t : State} {q : Word} : askLineIdle s = (q, t) ↔ LineIdleAnswered s q t := by
  unfold askLineIdle LineIdleAnswered
  split
  · next q' qs hq => simp [hq]; grind
  · next hq =>
    split
    · next q' rest hd => simp [hq, hd]; grind
    · next hd =>
      have hd' : ∀ v rest, decode s.input ≠ .record (.lineidle v) rest := fun v rest h => hd v rest h
      simp [hq, hd']; grind

theorem inRange_eq_some {range x : Nat} {v : Word} {s t : State} :
    inRange range v s = some (x, t) ↔ v.toNat < range ∧ x = v.toNat ∧ t = s := by
  unfold inRange
  split <;> simp_all [eq_comm]

/-- An accepted draw is one of `RandomAnswered`, and no other. -/
theorem askRandom_eq_some {range x : Nat} {s t : State} :
    askRandom range s = some (x, t) ↔ RandomAnswered s range x t := by
  unfold askRandom RandomAnswered
  split
  · next v vs hv => simp [hv, inRange_eq_some]; grind
  · next hv =>
    split
    · next v rest hd => simp [hv, hd, inRange_eq_some]; grind
    · next hd =>
      have hd' : ∀ v rest, decode s.input ≠ .record (.random v) rest := fun v rest h => hd v rest h
      simp [hv, hd']; grind

/-- A draw is refused exactly when the supplied answer is outside the range. -/
theorem askRandom_eq_none {range : Nat} {s : State} :
    askRandom range s = none ↔ ∃ v, RandomSupplied s v ∧ range ≤ v.toNat := by
  unfold askRandom RandomSupplied
  split
  · next v vs hv => simp [hv, inRange]
  · next hv =>
    split
    · next v rest hd => simp [hv, hd, inRange]
    · next hd =>
      have hd' : ∀ v rest, decode s.input ≠ .record (.random v) rest := fun v rest h => hd v rest h
      simp [hv, hd']

theorem askRandom_lt {range x : Nat} {s t : State} (h : RandomAnswered s range x t) (hr : 0 < range) : x < range := by
  rcases h with ⟨_, _, _, _, h, _⟩ | ⟨_, _, _, _, _, h, _⟩ | ⟨_, _, h, _⟩
  · exact h
  · exact h
  · exact h ▸ Nat.mod_lt _ hr

/-- What a question changes: the answers, `input` and the list of questions. -/
theorem lineIdleAnswered_eq {s t : State} {q : Word} (h : LineIdleAnswered s q t) :
    t = { s with lineIdleAns := t.lineIdleAns, input := t.input, asked := s.asked ++ [.lineIdle] } := by
  rcases h with ⟨_, _, rfl⟩ | ⟨_, _, _, rfl⟩ | ⟨_, _, _, rfl⟩ <;> rfl

theorem randomAnswered_eq {s t : State} {range x : Nat} (h : RandomAnswered s range x t) :
    t = { s with randomAns := t.randomAns, input := t.input, asked := s.asked ++ [.random range] } := by
  rcases h with ⟨_, _, _, _, _, rfl⟩ | ⟨_, _, _, _, _, _, rfl⟩ | ⟨_, _, _, rfl⟩ <;> rfl

theorem lineIdleAnswered_exists (s : State) : ∃ q t, LineIdleAnswered s q t :=
  ⟨(askLineIdle s).1, (askLineIdle s).2, askLineIdle_eq.mp rfl⟩

/-! ### The procedures of the media access controller -/

/-- What `BeginTransmit` does when it does not fault (R184). -/
theorem beginTransmit_eq_next {P : Params} {s t : State} :
    beginTransmit P s = .next t ↔
      ∃ b w, wireFrame P s = some (b :: w) ∧ w.length + 1 ≤ bufCap P ∧
        0 < (BitVec.ofNat 16 (w.length + 1)).toNat ∧
        t = { s with
          buf := Memory.writeBytes s.buf 0 (b :: w), bufLen := BitVec.ofNat 16 (w.length + 1), idx := 0,
          phase := .transmitting, txen := true, timer := s.ifgTicks, out := s.out ++ [.txen true, .write b] } := by
  unfold beginTransmit wireFrame
  cases hp : txPayRead s with
  | none => simp
  | some p =>
    cases hw : encodeFrame P.checksum s.maxPayload s.txDst s.localAddr p with
    | none => simp [hw]
    | some w =>
      have hne : w ≠ [] := by
        unfold encodeFrame at hw
        split at hw
        · simp at hw
        · intro h
          simp [h] at hw
      obtain ⟨b, w, rfl⟩ := List.exists_cons_of_ne_nil hne
      simp only [hw, andThen_eq_next, bufWrite_eq_next, Option.some.injEq, List.cons.injEq]
      constructor
      · rintro ⟨u, ⟨hcap, rfl⟩, h⟩
        refine ⟨b, w, ⟨rfl, rfl⟩, by simpa using hcap, ?_⟩
        simp only [bufRead] at h
        split at h
        · simp at h
        · next c hc =>
          split at hc
          · next hpos =>
            have hb := Memory.read_writeBytes_outside w (Memory.write s.buf 0 b) 1 0 (by omega)
            rw [Memory.writeBytes, hb, Memory.read_write_same, Option.some.injEq] at hc
            subst hc
            refine ⟨by simpa using hpos, ?_⟩
            simp only [Host.Outcome.next.injEq] at h
            rw [← h]
            simp [armTimer, emit]
          · simp at hc
      · rintro ⟨b', w', ⟨rfl, rfl⟩, hcap, hpos, rfl⟩
        refine ⟨_, ⟨by simpa using hcap, rfl⟩, ?_⟩
        have hb := Memory.read_writeBytes_outside w (Memory.write s.buf 0 b) 1 0 (by omega)
        have hr : bufRead { s with
            bufLen := BitVec.ofNat 16 (b :: w).length, idx := 0, buf := Memory.writeBytes s.buf 0 (b :: w) } 0 =
            some b := by
          simp only [bufRead, List.length_cons]
          rw [if_pos hpos, Memory.writeBytes, hb, Memory.read_write_same]
        simp only [hr]
        simp [armTimer, emit]

/-- What `RxStore` does when it does not fault (R200). -/
theorem rxStore_eq_next {P : Params} {b : Byte} {s t : State} :
    rxStore P b s = .next t ↔
      (s.bufLen.toNat < rxLimit s ∧ s.bufLen.toNat + 1 ≤ bufCap P ∧
        t = { s with
          buf := Memory.write s.buf s.bufLen.toNat b, bufLen := s.bufLen + 1, timer := s.ifgTicks }) ∨
      (rxLimit s ≤ s.bufLen.toNat ∧ t = { s with rxOvf := true, timer := s.ifgTicks }) := by
  unfold rxStore
  split
  · next h =>
    simp only [andThen_eq_next, bufWrite_eq_next, Host.Outcome.next.injEq]
    constructor
    · rintro ⟨u, ⟨hc, rfl⟩, rfl⟩
      exact .inl ⟨h, hc, rfl⟩
    · rintro (⟨_, hc, rfl⟩ | ⟨h', _⟩)
      · exact ⟨_, ⟨hc, rfl⟩, rfl⟩
      · omega
  · next h =>
    simp only [Host.Outcome.next.injEq]
    constructor
    · rintro rfl
      exact .inr ⟨by omega, rfl⟩
    · rintro (⟨h', _⟩ | ⟨_, rfl⟩)
      · omega
      · rfl

/-- What `RxComplete` does when it does not fault (R201). -/
theorem rxComplete_eq_next {P : Params} {s t : State} :
    rxComplete P s = .next t ↔
      (s.rxOvf = true ∧ t = takeError .malformedFrame s) ∨
      (s.rxOvf = false ∧ ∃ body, bufBytes s = some body ∧
        t = deliver s (decodeFrame P.checksum s.maxPayload body)) := by
  unfold rxComplete
  cases hovf : s.rxOvf with
  | true => simp [eq_comm]
  | false => cases hb : bufBytes s <;> simp [eq_comm]

/-- What the echo comparison does when it does not fault (R188). -/
theorem echoByte_eq_next {b : Byte} {s t : State} :
    echoByte b s = .next t ↔
      ∃ e, bufRead s s.idx.toNat = some e ∧
        ((b = e ∧ s.idx + 1 = s.bufLen ∧
            t = completeSend okCode (emit (.txen false) { s with idx := s.idx + 1, txen := false })) ∨
          (b = e ∧ s.idx + 1 ≠ s.bufLen ∧ ∃ w, bufRead s (s.idx + 1).toNat = some w ∧
            t = { s with idx := s.idx + 1, timer := s.ifgTicks, out := s.out ++ [.write w] }) ∨
          (b ≠ e ∧ t = enterJamming s)) := by
  unfold echoByte
  cases he : bufRead s s.idx.toNat with
  | none => simp
  | some e =>
    by_cases hbe : b = e
    · by_cases hl : s.idx + 1 = s.bufLen
      · simp only [if_pos hbe, if_pos hl, Host.Outcome.next.injEq]
        constructor
        · rintro rfl
          exact ⟨e, rfl, .inl ⟨hbe, hl, rfl⟩⟩
        · rintro ⟨e', he', ⟨_, _, rfl⟩ | ⟨_, h, _⟩ | ⟨h, _⟩⟩
          · rfl
          · exact absurd hl h
          · exact absurd (hbe.trans (Option.some.inj he')) h
      · simp only [if_pos hbe, if_neg hl]
        have hr : bufRead { s with idx := s.idx + 1 } (s.idx + 1).toNat = bufRead s (s.idx + 1).toNat := rfl
        rw [hr]
        cases hw : bufRead s (s.idx + 1).toNat with
        | none =>
          simp only [reduceCtorEq, false_iff, not_exists, not_and, not_or]
          exact fun e' he' => ⟨fun _ h => absurd h hl, fun _ _ w h => by simp at h,
            fun h => absurd (hbe.trans (Option.some.inj he')) h⟩
        | some w =>
          simp only [Host.Outcome.next.injEq]
          constructor
          · rintro rfl
            exact ⟨e, rfl, .inr (.inl ⟨hbe, hl, w, rfl, rfl⟩)⟩
          · rintro ⟨e', he', ⟨_, h, _⟩ | ⟨_, _, w', hw', rfl⟩ | ⟨h, _⟩⟩
            · exact absurd h hl
            · cases hw'
              rfl
            · exact absurd (hbe.trans (Option.some.inj he')) h
    · simp only [if_neg hbe, Host.Outcome.next.injEq]
      constructor
      · rintro rfl
        exact ⟨e, rfl, .inr (.inr ⟨hbe, rfl⟩)⟩
      · rintro ⟨e', he', ⟨h, _⟩ | ⟨h, _⟩ | ⟨_, rfl⟩⟩
        · exact absurd (h.trans (Option.some.inj he').symm) hbe
        · exact absurd (h.trans (Option.some.inj he').symm) hbe
        · rfl

/-- What follows the draw (R231), its three ends. -/
theorem backoffAfterDraw_eq (delay : Nat) (s : State) :
    backoffAfterDraw delay s =
      if s.maxRetries.toNat < (s.retry + 1).toNat then
        takeError .collisionRetriesExhausted { s with retry := s.retry + 1 }
      else if delay = 0 then enterSensing { s with retry := s.retry + 1, phase := .backingOff }
      else armTimer (BitVec.ofNat 32 delay) { s with retry := s.retry + 1, phase := .backingOff } := rfl

/-- What `EnterBackoff` does when it ends in a next state (R231). -/
theorem enterBackoff_eq_next {s t : State} :
    enterBackoff s = .next t ↔
      backoffLo s ≤ backoffHi s ∧ backoffHi s < 2 ^ 32 ∧
        ∃ x u, RandomAnswered s (backoffHi s - backoffLo s + 1) x u ∧ t = backoffAfterDraw (backoffLo s + x) u := by
  unfold enterBackoff
  split
  · next h =>
    simp only [h, true_and]
    cases ha : askRandom (backoffHi s - backoffLo s + 1) s with
    | none =>
      simp only [reduceCtorEq, false_iff, not_exists, not_and]
      intro x u hx
      rw [askRandom_eq_some.mpr hx] at ha
      simp at ha
    | some xu =>
      obtain ⟨x, u⟩ := xu
      simp only [Host.Outcome.next.injEq]
      constructor
      · rintro rfl
        exact ⟨x, u, askRandom_eq_some.mp ha, rfl⟩
      · rintro ⟨x', u', hx, rfl⟩
        rw [askRandom_eq_some.mpr hx, Option.some.injEq, Prod.mk.injEq] at ha
        rw [ha.1, ha.2]
  · next h => simp only [reduceCtorEq, false_iff]; tauto

/-- `EnterBackoff` refuses exactly when the supplied answer is outside the range it asks (R264). -/
theorem enterBackoff_eq_refused {s : State} (hlo : backoffLo s ≤ backoffHi s) (hhi : backoffHi s < 2 ^ 32) :
    enterBackoff s = .refused .randomOutOfRange ↔
      ∃ v, RandomSupplied s v ∧ backoffHi s - backoffLo s + 1 ≤ v.toNat := by
  unfold enterBackoff
  rw [if_pos ⟨hlo, hhi⟩, ← askRandom_eq_none]
  cases askRandom (backoffHi s - backoffLo s + 1) s <;> simp

/-- What the sensing expiry does when it does not fault (R186). -/
theorem sensingExpiry_eq_next {P : Params} {s t : State} :
    sensingExpiry P s = .next t ↔
      ∃ q u, LineIdleAnswered s q u ∧
        ((q.toNat < u.ifgTicks.toNat ∧ t = enterReceiving u) ∨
          (u.ifgTicks.toNat ≤ q.toNat ∧ u.sendPending = true ∧ beginTransmit P u = .next t) ∨
          (u.ifgTicks.toNat ≤ q.toNat ∧ u.sendPending = false ∧ t = u)) := by
  unfold sensingExpiry
  obtain ⟨q, u, h⟩ := lineIdleAnswered_exists s
  have heq := askLineIdle_eq.mpr h
  rw [heq]
  constructor
  · intro ht
    refine ⟨q, u, h, ?_⟩
    simp only at ht
    split at ht
    · next hq => exact .inl ⟨hq, by simpa [eq_comm] using ht⟩
    · next hq =>
      split at ht
      · next hp => exact .inr (.inl ⟨by omega, hp, ht⟩)
      · next hp => exact .inr (.inr ⟨by omega, by simpa using hp, by simpa [eq_comm] using ht⟩)
  · rintro ⟨q', u', h', hc⟩
    rw [askLineIdle_eq.mpr h', Prod.mk.injEq] at heq
    obtain ⟨rfl, rfl⟩ := heq
    simp only
    rcases hc with ⟨hq, rfl⟩ | ⟨hq, hp, ht⟩ | ⟨hq, hp, rfl⟩
    · rw [if_pos hq]
    · rw [if_neg (by omega), if_pos hp, ht]
    · rw [if_neg (by omega), if_neg (by simp [hp])]

/-- What the end of a body does, whichever its result: one output, then listening again (R201). -/
theorem deliver_of_running {s : State} (r : DecodeResult) (h : running s = true) :
    ∃ o, deliver s r = { s with
      phase := .sensingCarrier, bufLen := 0, idx := 0, rxOvf := false, timer := s.ifgTicks, out := s.out ++ [o] } := by
  unfold deliver takeError
  have hemit : ∀ o, enterIdle (emit o s) = { s with
      phase := .sensingCarrier, bufLen := 0, idx := 0, rxOvf := false, timer := s.ifgTicks,
      out := s.out ++ [o] } := fun o => by
    rw [enterIdle_of_running (by simpa using h)]
    simp [emit]
  split
  · split <;> exact ⟨_, hemit _⟩
  · exact ⟨_, hemit _⟩
  · exact ⟨_, hemit _⟩

/-- What the expiry rules do when they end in a next state (R178). -/
theorem expiry_eq_next {P : Params} {s t : State} :
    expiry P s = .next t ↔
      (s.phase = .sensingCarrier ∧ sensingExpiry P s = .next t) ∨
      (s.phase = .transmitting ∧ t = enterJamming s) ∨
      (s.phase = .jamming ∧ jammingExpiry s = .next t) ∨
      (s.phase = .backingOff ∧ t = enterSensing s) ∨
      (s.phase = .receiving ∧ t = takeError .malformedFrame s) := by
  unfold expiry
  split <;> rename_i hp <;> simp [hp, Eq.comm (b := t)]

/-- What a tick does when it ends in a next state (R178): nothing, one count down, or the expiry rule. -/
theorem tickElapses_eq_next {P : Params} {s t : State} :
    tickElapses P s = .next t ↔
      (s.timer = 0 ∧ t = s) ∨
      (s.timer = 1 ∧ expiry P { s with timer := 0 } = .next t) ∨
      (1 < s.timer.toNat ∧ t = { s with timer := s.timer - 1 }) := by
  unfold tickElapses
  by_cases h0 : s.timer = 0#32
  · simp [h0, eq_comm]
  · by_cases h1 : s.timer - 1 = 0#32
    · have ht : s.timer = 1 := by bv_omega
      simp [ht]
    · have ht : s.timer ≠ 1 := fun h => h1 (by simp [h])
      have hgt : 1 < s.timer.toNat := by bv_omega
      rw [if_neg h0, if_neg h1]
      have h0' : s.timer ≠ 0 := h0
      simp only [ht, h0', hgt, false_and, false_or, true_and, Host.Outcome.next.injEq, eq_comm]

/-- What `SEND` does when it does not fault (R174): a refusal that changes only the return value, or the latched
request. -/
theorem requestSend_next {P : Params} {dst : Byte} {len : Half} {payload : List Byte} {s t : State}
    (h : requestSend P dst len payload s = .next t) :
    ((running s = false ∨ s.sendPending = true) ∧ t = { s with ret := some 0xFF }) ∨
    (running s = true ∧ s.sendPending = false ∧ s.maxPayload.toNat < len.toNat ∧ t = { s with ret := some 1 }) ∨
    (running s = true ∧ s.sendPending = false ∧ len.toNat ≤ s.maxPayload.toNat ∧
      payload.length ≤ P.payloadCap ∧
      t = { s with
        txDst := dst, txLen := len, txPay := Memory.writeBytes s.txPay 0 payload, sendPending := true, retry := 0,
        timer := if s.phase = .sensingCarrier ∧ s.timer = 0 then s.ifgTicks else s.timer, ret := some 0 }) := by
  unfold requestSend at h
  split at h
  · next hr =>
    cases h
    exact .inl ⟨.inl (by simpa using hr), rfl⟩
  · next hr =>
    split at h
    · next hs =>
      cases h
      exact .inl ⟨.inr hs, rfl⟩
    · next hs =>
      have hr' : running s = true := by simpa using hr
      have hs' : s.sendPending = false := by simpa using hs
      split at h
      · next hl =>
        cases h
        exact .inr (.inl ⟨hr', hs', hl, rfl⟩)
      · next hl =>
        simp only [andThen_eq_next, txPayWrite_eq_next] at h
        obtain ⟨u, ⟨hc, rfl⟩, h⟩ := h
        cases h
        refine .inr (.inr ⟨hr', hs', by omega, hc, ?_⟩)
        by_cases hp : s.phase = .sensingCarrier ∧ s.timer = 0
        · rw [if_pos hp, if_pos (by exact hp)]
          rfl
        · rw [if_neg hp, if_neg (by exact hp)]
          rfl

end Sys2Proof.Machine
end

