-- ==== Sys2Proof/Laws/Parameters.lean ====
section
/-!
SUPPORT. What a step under any parameters does, by what stands first in `input`, and what passing over reports
changes.
-/

namespace Sys2Proof.Machine

/-- Passing over bytes changes `input` at most. -/
theorem skipBytes_exists (bytes : List Byte) (t : State) : ∃ rest, skipBytes bytes t = { t with input := rest } := by
  unfold skipBytes
  split
  · exact ⟨_, rfl⟩
  · exact ⟨t.input, rfl⟩

theorem skipBytes_of_append {bytes rest : List Byte} {t : State} (h : t.input = bytes ++ rest) :
    skipBytes bytes t = { t with input := rest } := by
  unfold skipBytes
  rw [h, List.isPrefixOf?_eq_some_iff_append_eq.mpr rfl]

theorem skipOutputs_exists (i : Instr) (s t : State) : ∃ rest, skipOutputs i s t = { t with input := rest } := by
  unfold skipOutputs
  split
  · exact skipBytes_exists _ t
  · exact ⟨t.input, rfl⟩

theorem stepFor_of_record (P : Params) {s : State} {i : Instr} {rest : List Byte} (h : decode s.input = .record i rest) :
    stepFor P s = andThen (execFor P i { s with input := rest })
      fun t => .next (skipOutputs i { s with input := rest } t) := by
  unfold stepFor fetch; rw [h]

theorem traceStepFor_of_record (P : Params) {s : State} {i : Instr} {rest : List Byte}
    (h : decode s.input = .record i rest) :
    traceStepFor P s = andThen (execFor P i { s with input := rest })
      fun t => .next (skipReports i { s with input := rest } t) := by
  unfold traceStepFor fetch; rw [h]

theorem stepFor_of_empty (P : Params) {s : State} (h : s.input = []) : stepFor P s = .next s := by
  unfold stepFor fetch; rw [h]; rfl

/-- What a next state of the step comes from. -/
theorem stepFor_eq_next {P : Params} {s t : State} (h : stepFor P s = .next t) :
    (∃ i rest u left, decode s.input = .record i rest ∧ execFor P i { s with input := rest } = .next u ∧
      t = { u with input := left }) ∨ (decode s.input = .empty ∧ t = s) := by
  unfold stepFor fetch at h
  cases hd : decode s.input with
  | record i rest =>
    rw [hd] at h
    obtain ⟨u, hu, ht⟩ := andThen_eq_next.mp h
    obtain ⟨left, hl⟩ := skipOutputs_exists i { s with input := rest } u
    cases ht
    exact .inl ⟨i, rest, u, left, rfl, hu, hl⟩
  | empty => rw [hd] at h; cases h; exact .inr ⟨rfl, rfl⟩
  | reservedCode c => rw [hd] at h; cases h
  | truncated => rw [hd] at h; cases h
  | reservedOperand b => rw [hd] at h; cases h

end Sys2Proof.Machine
end

