-- ==== Sys2Proof/Laws/PerInstr.lean ====
section
/-!
SUPPORT. Statements made per operation: the record of an operation starts with the code byte of its row, and that
code is the code of the row (30_encoding.md R96, R97).
-/

namespace Sys2Proof.Laws.EncodeCode

open Sys2Proof

/-- The first byte of an operation's record is its code, and the decoder's table gives that code a row (R96). -/
def Statement (i : Instr) : Prop := (encode i).head? = some (code i) ∧ (opCode (code i)).isSome = true

theorem reset : Statement .reset := by constructor <;> rfl
theorem cfgwr (idx : Byte) (val : Word) : Statement (.cfgwr idx val) := by constructor <;> rfl
theorem rdreg (idx : Byte) : Statement (.rdreg idx) := by constructor <;> rfl
theorem init : Statement .init := by constructor <;> rfl
theorem send (dst : Byte) (len : Half) (payload : List Byte) : Statement (.send dst len payload) := by
  constructor <;> rfl
theorem cancel : Statement .cancel := by constructor <;> rfl
theorem byte (b : Byte) : Statement (.byte b) := by constructor <;> rfl
theorem tick : Statement .tick := by constructor <;> rfl
theorem lineidle (q : Word) : Statement (.lineidle q) := by constructor <;> rfl
theorem random (v : Word) : Statement (.random v) := by constructor <;> rfl
theorem txen (on : Bool) : Statement (.txen on) := by constructor <;> rfl
theorem write (b : Byte) : Statement (.write b) := by constructor <;> rfl
theorem senddone (status : Byte) : Statement (.senddone status) := by constructor <;> rfl
theorem rxdeliver (src : Byte) (len : Half) (payload : List Byte) : Statement (.rxdeliver src len payload) := by
  constructor <;> rfl
theorem drop (reason : Byte) : Statement (.drop reason) := by constructor <;> rfl

end Sys2Proof.Laws.EncodeCode
end

