-- ==== Sys2Proof/Tests/Slice0.lean ====
section
/-!
SUPPORT. The package's own tests. Expected values are those of 95_test_vectors.md, named by the number of the vector
(V1 to V150), or of the rules cited. After them, one witness for every statement that has hypotheses: concrete
states and operands that meet all of them, at the boundary values of its clauses.
-/

namespace Sys2Proof.Tests

open Sys2Proof Sys2Proof.Machine

/-! ### Well-formedness (30_encoding.md R96): `len` counts the payload -/

theorem test_ill_formed_send_is_refused : (Instr.send 0xFF 3 [0x41, 0x41]).wf = false := by decide
theorem test_ill_formed_rxdeliver_is_refused : (Instr.rxdeliver 0x02 0 [0x41]).wf = false := by decide
theorem test_well_formed_send : (Instr.send 0xFF 2 [0x41, 0x41]).wf = true := by decide

/-! ### Decoding, from records written out by the patterns of 30_encoding.md R97 -/

theorem test_decode_reset : decode [0x00] = .record .reset [] := by decide
theorem test_decode_cfgwr : decode [0x01, 0x05, 0x00, 0x00, 0x01, 0x23] = .record (.cfgwr 5 0x123) [] := by decide
theorem test_decode_rdreg : decode [0x02, 0x0D] = .record (.rdreg 13) [] := by decide
theorem test_decode_init : decode [0x03] = .record .init [] := by decide
theorem test_decode_send : decode [0x04, 0x02, 0x00, 0x01, 0x78] = .record (.send 2 1 [0x78]) [] := by decide
theorem test_decode_cancel : decode [0x05] = .record .cancel [] := by decide
theorem test_decode_byte : decode [0x10, 0x7E] = .record (.byte 0x7E) [] := by decide
theorem test_decode_tick : decode [0x11] = .record .tick [] := by decide
theorem test_decode_lineidle : decode [0x18, 0x01, 0x02, 0x03, 0x04] = .record (.lineidle 0x01020304) [] := by decide
theorem test_decode_random : decode [0x19, 0x01, 0x02, 0x03, 0x04] = .record (.random 0x01020304) [] := by decide
theorem test_decode_txen_on : decode [0x20, 0x01] = .record (.txen true) [] := by decide
theorem test_decode_txen_off : decode [0x20, 0x00] = .record (.txen false) [] := by decide
theorem test_decode_write : decode [0x21, 0x07] = .record (.write 7) [] := by decide
theorem test_decode_senddone : decode [0x22, 0x04] = .record (.senddone 4) [] := by decide
theorem test_decode_rxdeliver : decode [0x23, 0x02, 0x00, 0x00, 0x05] = .record (.rxdeliver 2 0 []) [0x05] := by
  decide
theorem test_decode_drop : decode [0x24, 0x06] = .record (.drop 6) [] := by decide
theorem test_decode_reserved : decode [0x06, 0x00] = .reservedCode 0x06 := by decide
theorem test_decode_truncated : decode [0x04, 0x02, 0x00, 0x02, 0x78] = .truncated := by decide
theorem test_decode_txen_two : decode [0x20, 0x02] = .reservedOperand 0x02 := by decide

/-- A row of spec/opcode_table.json is one number whose most significant byte is the code (log 2). -/
theorem test_table_cfgwr : decodeTableWord 48 0x010500000023 = some (.cfgwr 5 0x23) := by decide
/-- The row of `SEND` gives the payload no bits: zeros. -/
theorem test_table_send : decodeTableWord 32 0x04FF0002 = some (.send 0xFF 2 [0, 0]) := by decide

/-! ### Frame codec -/

/-- V1 -/
theorem test_checksum_catalogue :
    checksum16 [0x31, 0x32, 0x33, 0x34, 0x35, 0x36, 0x37, 0x38, 0x39] = 0x29B1 := by decide +kernel
/-- V2, V3, V4 -/
theorem test_checksum_zeros : checksum16 [] = 0xFFFF ∧ checksum16 [0] = 0xE1F0 ∧ checksum16 [0, 0] = 0x1D0F := by
  decide
/-- V10, V13, V15 -/
theorem test_stuff : stuffEncode [] = [0x01] ∧ stuffEncode [0x11, 0x22, 0x00, 0x33] = [0x03, 0x11, 0x22, 0x02, 0x33] ∧
    stuffEncode [0x11, 0, 0, 0] = [0x02, 0x11, 0x01, 0x01, 0x01] := by decide
/-- V17 -/
theorem test_stuff_full_block :
    stuffEncode (List.replicate 254 0xAA) = 0xFF :: (List.replicate 254 0xAA ++ [0x01]) := by decide +kernel
/-- V21 -/
theorem test_stuff_full_block_zero :
    stuffEncode (List.replicate 254 0xAA ++ [0]) = 0xFF :: (List.replicate 254 0xAA ++ [0x01, 0x01]) := by
  decide +kernel
/-- V22: the non-canonical body is accepted. -/
theorem test_unstuff_non_canonical :
    stuffDecode (0xFF :: List.replicate 254 0xAA) = some (List.replicate 254 0xAA) := by decide +kernel
/-- V24, V25, V26 -/
theorem test_unstuff_malformed :
    stuffDecode [0x07, 0xFF, 0x01] = none ∧ stuffDecode [0x03, 0x11, 0x00] = none ∧ stuffDecode [0x00] = none := by
  decide
/-- V34 -/
theorem test_encode : encodeFrame checksum16 64 0x10 0x20 [0x11, 0x00, 0x22] =
    some [0x04, 0x10, 0x20, 0x11, 0x04, 0x22, 0x52, 0x6B, 0x00] := by decide +kernel
/-- V39 -/
theorem test_encode_too_large : encodeFrame checksum16 64 0 0 (List.replicate 65 0) = none := by decide
/-- V40, V43 -/
theorem test_decode_frame :
    decodeFrame checksum16 64 [0x07, 0xFF, 0x01, 0x41, 0x41, 0x9E, 0x4B] = .frame ⟨0xFF, 0x01, [0x41, 0x41]⟩ ∧
    decodeFrame checksum16 64 [0x07, 0xFF, 0x01, 0x41, 0x40, 0x9E, 0x4B] = .checksumMismatch := by decide +kernel
/-- V55, V56 -/
theorem test_decode_frame_malformed :
    decodeFrame checksum16 64 [0x02, 0x02, 0x01, 0x01] = .malformedFrame ∧
    decodeFrame checksum16 0 [0x06, 0x01, 0x02, 0x78, 0x62, 0x51] = .malformedFrame := by decide
/-- V27: the trailing-zero weakness. -/
theorem test_decode_frame_trailing_zero :
    decodeFrame checksum16 64 [0x05, 0x02, 0x01, 0x6B, 0x4C, 0x01] = .frame ⟨0x02, 0x01, [0x6B]⟩ := by decide +kernel

/-! ### States -/

/-- `CONFIG{K0}` of 95_test_vectors.md, without `INIT`. -/
def unlocked : State :=
  { State.reset with
    bitTicks := 8, ifgTicks := 280, jamTicks := 160, backoffMin := 100, backoffMax := 400, maxRetries := 3,
    localAddr := 0x01, bcastAddr := 0xFF, maxPayload := 64 }

/-- `BOOT{K0}`: listening, the window just armed (V80). -/
def listening : State := { unlocked with cfgValid := true, phase := .sensingCarrier, timer := 280 }

/-- V76: `INIT` with no `CFGWR` at all. -/
def faulted : State := { State.reset with fault := true, cfgErr := 1 }

/-- Section 2.8: `SEND 02, 0, ""` latched while listening. -/
def requested : State := { listening with sendPending := true, txDst := 0x02, txLen := 0 }

/-- V121: the wire frame V32 in `BUF`, its first byte written. -/
def sending : State :=
  { requested with
    phase := .transmitting, txen := true, bufLen := 6, idx := 0,
    buf := [(0, 0x05), (1, 0x02), (2, 0x01), (3, 0x6B), (4, 0x4C), (5, 0x00)] }

/-- A second transmitter: node 0x02 with the frame V37 ("x" to node 0x01). -/
def other : State :=
  { listening with
    localAddr := 0x02, sendPending := true, txDst := 0x01, txLen := 1, txPay := [(0, 0x78)],
    phase := .transmitting, txen := true, bufLen := 7, idx := 0,
    buf := [(0, 0x06), (1, 0x01), (2, 0x02), (3, 0x78), (4, 0x62), (5, 0x51), (6, 0x00)] }

/-- V133: the jam has begun. -/
def jamming : State := { sending with phase := .jamming, timer := 160 }

/-- V91: the first jam about to expire, with the largest answer. -/
def jamEnds : State := { jamming with timer := 1, randomAns := [300] }

/-- V94: the jam of the last attempt about to expire. -/
def lastJamEnds : State := { jamming with timer := 1, retry := 3, randomAns := [5] }

/-- V142: backing off. -/
def backing : State := { sending with phase := .backingOff, txen := false, timer := 100, retry := 1 }

/-- Receiving, three bytes stored, no request. -/
def receiving : State :=
  { listening with phase := .receiving, bufLen := 3, buf := [(0, 0x07), (1, 0xFF), (2, 0x02)] }

/-- Receiving the whole body of V31. -/
def received : State :=
  { listening with
    phase := .receiving, bufLen := 7,
    buf := [(0, 0x07), (1, 0xFF), (2, 0x02), (3, 0x42), (4, 0x42), (5, 0xA2), (6, 0x2B)] }

/-- `RX_LIMIT` for K0 is 69; the next body byte is the last one that is kept. -/
def almostFull : State := { receiving with bufLen := 68, buf := (List.range 68).map fun i => (i, 0x11#8) }

/-- The outcome is a next state that satisfies a check. -/
def nextWith (r : Result) (p : State → Bool) : Bool :=
  match r with
  | .next t => p t
  | _ => false

/-- The outcome is a given refusal. -/
def refusedWith (r : Result) (e : Refusal) : Bool :=
  match r with
  | .refused e' => decide (e' = e)
  | _ => false

/-! ### Host commands -/

/-- R290: a reset while transmitting releases the bus. -/
theorem test_reset : nextWith (exec .reset sending)
    (fun t => decide (t.phase = .idle ∧ t.txen = false ∧ t.out = [.txen false] ∧ t.bitTicks = 0)) = true := by decide
/-- V71 -/
theorem test_cfgwr : nextWith (exec (.cfgwr 5 0x23) State.reset) (fun t => decide (t.maxRetries = 3)) = true := by
  decide
/-- V81: locked. -/
theorem test_cfgwr_locked : nextWith (exec (.cfgwr 1 999) listening) (fun t => decide (t = listening)) = true := by
  decide
/-- V80 -/
theorem test_rdreg_status : nextWith (exec (.rdreg 9) listening) (fun t => decide (t.ret = some 0x61)) = true := by
  decide
/-- R98: `BUFPOS`. -/
theorem test_rdreg_bufpos : nextWith (exec (.rdreg 13) { sending with idx := 2 })
    (fun t => decide (t.ret = some 0x00020006)) = true := by decide
/-- V76 -/
theorem test_init_fault : nextWith (exec .init State.reset)
    (fun t => decide (t.ret = some 5 ∧ t.fault = true ∧ t.cfgErr = 1 ∧ statusWord t = 0x80)) = true := by
  decide
/-- V80 -/
theorem test_init : nextWith (exec .init unlocked) (fun t => decide (t = { listening with ret := some 0 })) = true := by
  decide
/-- V83 to V100, the failing bound of each rule and the value beside it. -/
theorem test_validation :
    validateConfig defaultParams { unlocked with bitTicks := 0 } = 0x01 ∧
    validateConfig defaultParams { unlocked with ifgTicks := 159 } = 0x02 ∧
    validateConfig defaultParams { unlocked with ifgTicks := 160, jamTicks := 80 } = 0 ∧
    validateConfig defaultParams { unlocked with jamTicks := 79 } = 0x04 ∧
    validateConfig defaultParams { unlocked with backoffMin := 401 } = 0x08 ∧
    validateConfig defaultParams { unlocked with backoffMax := 0x20000000 } = 0x10 ∧
    validateConfig defaultParams { unlocked with backoffMax := 0x1FFFFFFF } = 0 ∧
    validateConfig defaultParams { unlocked with maxPayload := 257 } = 0x20 ∧
    validateConfig defaultParams { unlocked with maxPayload := 256 } = 0 := by decide
/-- V110 -/
theorem test_send : nextWith (exec (.send 0xFF 2 [0x41, 0x41]) listening)
    (fun t => decide (t.ret = some 0 ∧ t.txPay = [(0, 0x41), (1, 0x41)] ∧ statusWord t = 0x69)) = true := by
  decide
/-- V114: a request while listening with the timer off starts a fresh window. -/
theorem test_send_fresh_window : nextWith (exec (.send 0x02 0 []) { listening with timer := 0 })
    (fun t => decide (t.timer = 280 ∧ t.ret = some 0)) = true := by decide
/-- V115 -/
theorem test_cancel : nextWith (exec .cancel requested)
    (fun t => decide (t.sendPending = false ∧ t.ret = some 1 ∧ t.timer = 280)) = true := by decide
/-- V117 -/
theorem test_cancel_too_late : nextWith (exec .cancel sending)
    (fun t => decide (t = { sending with ret := some 0 })) = true := by decide

/-! ### Events -/

/-- V130 -/
theorem test_byte_echo : nextWith (exec (.byte 0x05) sending)
    (fun t => decide (t.idx = 1 ∧ t.out = [.write 0x02] ∧ t.timer = 280)) = true := by decide
/-- V150: the last step of the reception. -/
theorem test_byte_delivers : nextWith (exec (.byte 0x00) received)
    (fun t => decide (t.out = [.rxdeliver 0x02 2 [0x42, 0x42]] ∧ t.phase = .sensingCarrier)) = true := by
  decide +kernel
/-- V121 -/
theorem test_tick_transmits : nextWith (exec .tick { requested with timer := 1, lineIdleAns := [280] })
    (fun t => decide (t = { sending with out := [.txen true, .write 0x05], asked := [.lineIdle] })) = true := by
  decide +kernel
/-- V93; V94, where the draw is still made; V97. -/
theorem test_tick_draws :
    nextWith (exec .tick { jamming with timer := 1, retry := 2, randomAns := [1200] })
      (fun t => decide (t.timer = 1600 ∧ t.retry = 3 ∧ t.asked = [.random 1201] ∧ statusWord t = 0x6C)) = true ∧
    nextWith (exec .tick lastJamEnds)
      (fun t => decide (t.out = [.txen false, .senddone 4] ∧ t.asked = [.random 2401] ∧ t.retry = 0)) = true ∧
    refusedWith (exec .tick { jamming with timer := 1, randomAns := [301] }) .randomOutOfRange = true := by
  decide

/-! ### Answers and output actions -/

theorem test_lineidle : nextWith (exec (.lineidle 280) listening) (fun t => decide (t.lineIdleAns = [280])) = true := by
  decide
theorem test_random : nextWith (exec (.random 5) listening) (fun t => decide (t.randomAns = [5])) = true := by decide
theorem test_txen : nextWith (exec (.txen true) listening) (fun t => decide (t.out = [.txen true])) = true := by decide
theorem test_write : nextWith (exec (.write 7) listening) (fun t => decide (t.out = [.write 7])) = true := by decide
theorem test_senddone : nextWith (exec (.senddone 4) listening) (fun t => decide (t.out = [.senddone 4])) = true := by
  decide
theorem test_rxdeliver : nextWith (exec (.rxdeliver 2 1 [0x78]) listening)
    (fun t => decide (t.out = [.rxdeliver 2 1 [0x78]])) = true := by decide
theorem test_drop : nextWith (exec (.drop 6) listening) (fun t => decide (t.out = [.drop 6])) = true := by decide

/-! ### Steps and the bus -/

/-- A step consumes the answer record that stands directly after the record of the `TICK` (30_encoding.md R97). -/
theorem test_step_takes_the_answer_record : nextWith
    (step { requested with timer := 1, input := [0x11, 0x18, 0x00, 0x00, 0x01, 0x17, 0x11] })
    (fun t => decide (t.phase = .receiving ∧ t.input = [0x11] ∧ t.asked = [.lineIdle])) = true := by decide
/-- A table row's record runs as the first operation after reset. -/
theorem test_step_runs_the_table_word : nextWith (step (State.reset.withFetchWord 48 0x010500000023))
    (fun t => decide (t.maxRetries = 3 ∧ t.input = [])) = true := by decide
theorem test_step_refuses_a_reserved_code :
    refusedWith (step { State.reset with input := [0xFF] }) (.reservedCode 0xFF) = true := by decide

/-- P1, the end of the first window: the step takes the answer and passes over the records of its outputs, which are
emitted once. -/
theorem test_step_passes_over_its_outputs : nextWith
    (step { requested with timer := 1, input := [0x11, 0x18, 0, 0, 0x13, 0x88, 0x20, 0x01, 0x21, 0x05, 0x11] })
    (fun t => decide (t.out = [.txen true, .write 0x05] ∧ t.input = [0x11])) = true := by decide +kernel
/-- A record that is not what the step emitted is not passed over. -/
theorem test_step_keeps_other_records : nextWith (step { requested with input := [0x11, 0x21, 0x07] })
    (fun t => decide (t.out = [] ∧ t.input = [0x21, 0x07])) = true := by decide

/-! ### Traces and scripts -/

/-- The bytes of a trace. -/
def traceBytes (r : Host.Outcome (State × List Byte) Fault Refusal) : List Byte :=
  match r with
  | .next (_, bytes) => bytes
  | _ => []

/-- P1: `03 (returns 00)`, `02 09 (returns 00 00 00 61)`; P4: `05 (returns 00)`. -/
theorem test_trace_writes_return_values : traceBytes (traceScript defaultParams [.init, .rdreg 9, .cancel] unlocked) =
    [0x03, 0x00, 0x02, 0x09, 0x00, 0x00, 0x00, 0x61, 0x05, 0x00] := by decide
/-- P2: `11  19 00 00 00 39  20 00`. -/
theorem test_trace_writes_answers_and_outputs :
    traceBytes (traceScript defaultParams [.tick] { jamming with timer := 1, randomAns := [57] }) =
      [0x11, 0x19, 0x00, 0x00, 0x00, 0x39, 0x20, 0x00] := by decide
/-- P1: an answer in brackets stands after the tick that asks and nowhere else: `11*n  18 00 00 13 88  20 01  21 ..`. An
output action on its own has one record. -/
theorem test_trace_writes_answers_once :
    traceBytes (traceScript defaultParams (scriptTicksAnswered 2 [.q 5000]) { requested with timer := 2 }) =
      [0x11, 0x11, 0x18, 0x00, 0x00, 0x13, 0x88, 0x20, 0x01, 0x21, 0x05] ∧
    traceBytes (traceScript defaultParams [.write 0x07] listening) = [0x21, 0x07] := by decide +kernel
/-- P1: a trace with return values, read back. -/
theorem test_trace_is_read : nextWith
    (andThen (traceStepFor defaultParams { unlocked with input := [0x03, 0x00, 0x02, 0x09, 0x00, 0x00, 0x00, 0x61] })
      (traceStepFor defaultParams))
    (fun t => decide (t.phase = .sensingCarrier ∧ t.ret = some 0x61 ∧ t.input = [])) = true := by decide
/-- R103, V126: of two ticks the second one asks. -/
theorem test_script_ticks_answered : nextWith
    (runScript (scriptTicksAnswered 2 [.q 280]) { listening with timer := 2 })
    (fun t => decide (t.phase = .sensingCarrier ∧ t.timer = 0 ∧ t.lineIdleAns = [])) = true := by decide
/-- P3: a `CONFIG` that lists one register, `CFGWR 5, 1` = 01 05 00 00 00 01. -/
theorem test_script_config_listed :
    (scriptConfigListed [(.maxRetries, 1)]).flatMap encode = [0x01, 0x05, 0x00, 0x00, 0x00, 0x01] ∧
    scriptBootListed [(.maxRetries, 1)] = [.reset, .cfgwr 5 1, .init] := by decide

/-- R153 with a parity bit: `CHAR_TICKS = 88`, so the gap of 160 ticks that V2 accepts at 10 bits per byte (R153,
examples) is below `2 * 88`. -/
theorem test_init_with_parity :
    nextWith (execFor ⟨checksum16, 11, 256⟩ .init { unlocked with ifgTicks := 160 })
      (fun t => decide (t.fault = true ∧ t.cfgErr = 2 ∧ t.ret = some 5)) = true := by decide

/-- A smaller capacity: the `MAX_PAYLOAD` of 64 fails V6 in a block whose buffers hold 63 bytes. -/
theorem test_init_with_a_smaller_capacity :
    nextWith (execFor ⟨checksum16, 10, 63⟩ .init unlocked) (fun t => decide (t.cfgErr = 0x20)) = true := by decide

/-- R270: a slot whose joined bytes are equal is delivered clean to every node, one byte time after it opened. -/
theorem test_bus_delivers_a_clean_byte :
    ((busTick defaultParams 80 0x03 [] ⟨[{ sending with timer := 100 }, listening], 79, some ⟨0, [⟨0, 0x05, 0⟩]⟩, 0⟩).map
      fun b => b.nodes.map fun s => (s.phase, s.out)) =
      some [(.transmitting, [.write 0x02]), (.receiving, [])] := by decide

/-! ### Invariant states -/

theorem inv_reset : Inv defaultParams State.reset := by
  constructor <;> first | decide | (intro h; exact absurd h (by decide))

theorem inv_faulted : Inv defaultParams faulted := by
  constructor <;> first | decide | (intro h; exact absurd h (by decide))

theorem inv_listening : Inv defaultParams listening := by
  constructor <;> first | decide | (intro h; exact absurd h (by decide))

theorem inv_requested : Inv defaultParams requested := by
  constructor <;> first | decide | exact fun _ => ⟨by decide, [], rfl⟩

theorem inv_sending : Inv defaultParams sending := by
  constructor <;> first | decide +kernel | exact fun _ => ⟨by decide, [], rfl⟩

theorem inv_other : Inv defaultParams other := by
  constructor <;> first | decide +kernel | exact fun _ => ⟨by decide, [0x78], by decide⟩

theorem inv_jamEnds : Inv defaultParams jamEnds := by
  constructor <;> first | decide +kernel | exact fun _ => ⟨by decide, [], rfl⟩

theorem inv_lastJamEnds : Inv defaultParams lastJamEnds := by
  constructor <;> first | decide +kernel | exact fun _ => ⟨by decide, [], rfl⟩

theorem inv_receiving : Inv defaultParams receiving := by
  constructor <;> first | decide | (intro h; exact absurd h (by decide))

/-! ### Witnesses: records and codec -/

theorem witness_DecodingAnEncodedOperationGivesItBack :
    (Instr.send 0xFF 2 [0x41, 0x41]).wf = true ∧ (Instr.rxdeliver 0x02 0 []).wf = true := by decide
theorem witness_EveryDecodedRecordIsAnEncoding : decode [0x02, 0x09, 0x11] = .record (.rdreg 9) [0x11] := by decide
/-- The reserved codes beside the rows of each direction, and the last one. -/
theorem witness_ReservedCodesAreRejected : ∀ c ∈ [0x06#8, 0x0F#8, 0x12#8, 0x1A#8, 0x25#8, 0xFF#8],
    c.toNat ∉ [0x00, 0x01, 0x02, 0x03, 0x04, 0x05, 0x10, 0x11, 0x18, 0x19, 0x20, 0x21, 0x22, 0x23, 0x24] := by decide
theorem witness_StepRunsTheDeliveredOperation :
    decode ({ listening with input := [0x11, 0x05] } : State).input = .record .tick [0x05] ∧
    Instr.tick.dir = .toBlock ∧
    ({ listening with out := [.write 7], input := [0x21, 0x07, 0x11] } : State).input =
      outputRecords (emitted listening { listening with out := [.write 7], input := [0x21, 0x07, 0x11] }) ++ [0x11] ∧
    (Instr.write 7).dir ≠ .toBlock ∧
    (∀ rest, ({ listening with out := [.write 7], input := [0x21, 0x08] } : State).input ≠
      outputRecords (emitted listening { listening with out := [.write 7], input := [0x21, 0x08] }) ++ rest) ∧
    listening.input = [] := by
  refine ⟨by decide, rfl, by decide, by decide, ?_, rfl⟩
  intro rest h
  cases h
theorem witness_StuffedSequencesHoldNoDelimiterAndFitTheirBound : (0 : Byte) ∉ List.replicate 254 0xAA#8 := by decide
theorem witness_DecodingAnEncodedFrameGivesItBack : (List.replicate 64 0x55#8).length ≤ (64 : Half).toNat := by decide
/-- V26; V55; V56 with its five unstuffed bytes against `MAX_PAYLOAD = 0`; V43; V40. -/
theorem witness_DecodeMakesItsFourChecksInOrder :
    stuffDecode [0x00] = none ∧ stuffDecode [0x02, 0x02, 0x01, 0x01] = some [0x02, 0x00, 0x00] ∧
    stuffDecode [0x06, 0x01, 0x02, 0x78, 0x62, 0x51] = some [0x01, 0x02, 0x78, 0x62, 0x51] ∧
    stuffDecode [0x07, 0xFF, 0x01, 0x41, 0x40, 0x9E, 0x4B] = some (0xFF :: 0x01 :: [0x41, 0x40] ++ [0x9E, 0x4B]) ∧
    checksum16 (0xFF :: 0x01 :: [0x41, 0x40]) ≠ (0x9E#8).setWidth 16 <<< 8 ||| (0x4B#8).setWidth 16 ∧
    stuffDecode [0x07, 0xFF, 0x01, 0x41, 0x41, 0x9E, 0x4B] = some (0xFF :: 0x01 :: [0x41, 0x41] ++ [0x9E, 0x4B]) ∧
    checksum16 (0xFF :: 0x01 :: [0x41, 0x41]) = (0x9E#8).setWidth 16 <<< 8 ||| (0x4B#8).setWidth 16 := by
  decide +kernel
/-- The first bit of the destination and the last one of the checksum of V32. -/
theorem witness_EverySingleBitErrorOfARawFrameIsDetected :
    decodeRaw checksum16 64 [0x02, 0x01, 0x6B, 0x4C] = .frame ⟨0x02, 0x01, []⟩ ∧
    [0x02#8, 0x01, 0x6B, 0x4C][0]? = some 0x02 ∧ [0x02#8, 0x01, 0x6B, 0x4C][3]? = some 0x4C ∧ 0 < 8 ∧ 7 < 8 := by
  decide +kernel
/-- V32 and V27. -/
theorem witness_ATrailingZeroByteIsNotDetected :
    ([] : List Byte).length + 1 ≤ (1 : Half).toNat ∧
    decodeRaw checksum16 1 (0x02 :: 0x01 :: [] ++ [0x6B, 0x4C]) = .frame ⟨0x02, 0x01, []⟩ := by decide +kernel

/-! ### Witnesses: configuration and reset -/

theorem witness_CfgwrStoresTheTruncatedValueOrIsIgnored :
    State.reset.cfgValid = false ∧ State.reset.fault = false ∧ 9 ≤ (9#8).toNat ∧ 9 ≤ (0xFF#8).toNat ∧
    listening.cfgValid = true ∧ faulted.fault = true := by decide
theorem witness_RdregReturnsTheRegisterAndChangesNothing : 14 ≤ (14#8).toNat ∧ 14 ≤ (0xFF#8).toNat := by decide
theorem witness_InitRefusesFaultsOrBoots :
    listening.cfgValid = true ∧ faulted.fault = true ∧ unlocked.cfgValid = false ∧ unlocked.fault = false ∧
    validateConfig defaultParams State.reset ≠ 0 ∧ validateConfig defaultParams unlocked = 0 := by decide
theorem witness_OnlyResetUnlocksTheConfiguration :
    (∃ t, exec (.cfgwr 0 1) listening = .next t) ∧ listening.cfgValid = true ∧
    (∃ t, exec .init faulted = .next t) ∧ faulted.fault = true := ⟨⟨_, rfl⟩, by decide, ⟨_, rfl⟩, by decide⟩
theorem witness_FaultModeAnswersOnlyResetAndRdreg : Inv defaultParams faulted ∧ faulted.fault = true :=
  ⟨inv_faulted, rfl⟩
/-- K0 -/
theorem witness_TheBootSequenceStartsListening :
    validateConfig defaultParams (configured ⟨8, 280, 160, 100, 400, 3, 0x01, 0xFF, 64⟩ sending) = 0 := by
  decide

/-! ### Witnesses: `SEND`, `CANCEL`, `BYTE` -/

/-- V78, V111; V112; V113: 64 bytes are latched, 65 are too large. -/
theorem witness_SendIsRefusedTooLargeOrLatched :
    running faulted = false ∧ requested.sendPending = true ∧ running listening = true ∧
    listening.sendPending = false ∧ listening.maxPayload.toNat < (65 : Half).toNat ∧
    (List.replicate 65 0x55#8).length = (65 : Half).toNat ∧ (64 : Half).toNat ≤ listening.maxPayload.toNat ∧
    (List.replicate 64 0x55#8).length = (64 : Half).toNat ∧ listening.maxPayload.toNat ≤ 256 := by decide
theorem witness_CancelWithdrawsOnlyBeforeTransmission :
    (requested.sendPending = true ∧ (requested.phase = .idle ∨ requested.phase = .sensingCarrier)) ∧
    ¬(sending.sendPending = true ∧ (sending.phase = .idle ∨ sending.phase = .sensingCarrier)) ∧
    ¬(listening.sendPending = true ∧ (listening.phase = .idle ∨ listening.phase = .sensingCarrier)) := by decide
theorem witness_BytesAreDiscardedInBackingOffAndWhenNotRunning :
    running faulted = false ∧ backing.phase = .backingOff := by decide
theorem witness_EveryByteInJammingWritesAnotherJamByte : running jamming = true ∧ jamming.phase = .jamming := by decide
/-- V130 (a byte to come), V132 (the last byte), V133 (another byte). -/
theorem witness_TheEchoIsComparedWithTheByteWritten :
    running sending = true ∧ sending.phase = .transmitting ∧ bufRead sending sending.idx.toNat = some 0x05 ∧
    sending.idx.toNat + 1 < sending.bufLen.toNat ∧ bufRead sending (sending.idx.toNat + 1) = some 0x02 ∧
    bufRead { sending with idx := 5 } 5 = some 0x00 ∧ (5#16).toNat + 1 = sending.bufLen.toNat ∧
    (0x55 : Byte) ≠ 0x05 := by decide
theorem witness_AByteWhileSensingStartsAReception :
    running listening = true ∧ listening.phase = .sensingCarrier ∧ (0x07 : Byte) ≠ 0 := by decide
/-- 69 is `RX_LIMIT` for `MAX_PAYLOAD = 64`: 68 bytes stored, then 69. -/
theorem witness_ABodyByteIsStoredOrOverflows :
    running almostFull = true ∧ almostFull.phase = .receiving ∧ (0x11 : Byte) ≠ 0 ∧
    almostFull.maxPayload.toNat ≤ 256 ∧
    almostFull.bufLen.toNat < almostFull.maxPayload.toNat + 4 + (almostFull.maxPayload.toNat + 4) / 254 + 1 ∧
    almostFull.maxPayload.toNat + 4 + (almostFull.maxPayload.toNat + 4) / 254 + 1 ≤
      ({ almostFull with bufLen := 69 } : State).bufLen.toNat := by decide
theorem witness_TheDelimiterDeliversOrDropsTheFrame :
    running received = true ∧ received.phase = .receiving ∧ ({ received with rxOvf := true } : State).rxOvf = true ∧
    received.rxOvf = false ∧ bufBytes received = some [0x07, 0xFF, 0x02, 0x42, 0x42, 0xA2, 0x2B] := by decide

/-! ### Witnesses: `TICK` -/

theorem witness_ATickCountsTheTimerDown :
    State.reset.timer = 0 ∧ 1 < ({ listening with timer := 2 } : State).timer.toNat := by decide
theorem witness_ADeadlineLastsAsManyTicksAsArmed : 279 < listening.timer.toNat := by decide
/-- V122 with `q = 279`, V126 and V121 with `q = 280`. -/
theorem witness_TheSensingExpiryReceivesTransmitsOrListens :
    requested.phase = .sensingCarrier ∧
    LineIdleAnswered { requested with timer := 1, lineIdleAns := [279] } 279
      { requested with timer := 1, lineIdleAns := [], asked := [.lineIdle] } ∧
    (279 : Word).toNat < requested.ifgTicks.toNat ∧
    LineIdleAnswered { listening with timer := 1, lineIdleAns := [280] } 280
      { listening with timer := 1, lineIdleAns := [], asked := [.lineIdle] } ∧
    requested.ifgTicks.toNat ≤ (280 : Word).toNat ∧ listening.sendPending = false ∧ requested.sendPending = true ∧
    txPayRead requested = some [] ∧ ([] : List Byte).length ≤ requested.maxPayload.toNat ∧
    requested.maxPayload.toNat ≤ 256 :=
  ⟨rfl, .inl ⟨[], rfl, rfl⟩, by decide, .inl ⟨[], rfl, rfl⟩, by decide, rfl, rfl, rfl, by decide, by decide⟩
theorem witness_AMissingEchoIsACollision :
    ({ sending with timer := 1 } : State).phase = .transmitting ∧ ({ sending with timer := 1 } : State).timer = 1 := by
  decide
/-- V94 (abandoned at `RETRY = MAX_RETRIES`), V96 (a delay of 0), V90 (`RETRY = 0`, the smallest delay). -/
theorem witness_TheJamExpiryDrawsADelayOrAbandons :
    running jamming = true ∧ jamming.phase = .jamming ∧ jamming.backoffMin.toNat ≤ jamming.backoffMax.toNat ∧
    jamming.backoffMax.toNat * 2 ^ (3 : BitVec 6).toNat < 2 ^ 32 ∧ (3 : BitVec 6).toNat ≤ jamming.maxRetries.toNat ∧
    RandomAnswered { jamming with timer := 1, retry := 3, randomAns := [5] } 2401 5
      { jamming with timer := 1, retry := 3, asked := [.random 2401] } ∧
    jamming.maxRetries.toNat < (3 : BitVec 6).toNat + 1 ∧
    RandomAnswered { jamming with timer := 1, backoffMin := 0, backoffMax := 0, randomAns := [0] } 1 0
      { jamming with timer := 1, backoffMin := 0, backoffMax := 0, asked := [.random 1] } ∧
    RandomAnswered { jamming with timer := 1, randomAns := [0] } 301 0
      { jamming with timer := 1, asked := [.random 301] } ∧
    jamming.retry.toNat + 1 ≤ jamming.maxRetries.toNat ∧ 100 * 2 ^ jamming.retry.toNat + 0 ≠ 0 :=
  ⟨rfl, rfl, by decide, by decide, by decide, .inl ⟨5, [], rfl, rfl, by decide, rfl⟩, by decide,
    .inl ⟨0, [], rfl, rfl, by decide, rfl⟩, .inl ⟨0, [], rfl, rfl, by decide, rfl⟩, by decide, by decide⟩
/-- V97: 301 is the first answer outside the range. -/
theorem witness_ADrawOutsideItsRangeIsRefused :
    jamming.phase = .jamming ∧ jamming.backoffMin.toNat ≤ jamming.backoffMax.toNat ∧
    jamming.backoffMax.toNat * 2 ^ jamming.retry.toNat < 2 ^ 32 ∧
    RandomSupplied { jamming with timer := 1, randomAns := [301] } 301 ∧
    jamming.backoffMax.toNat * 2 ^ jamming.retry.toNat - jamming.backoffMin.toNat * 2 ^ jamming.retry.toNat + 1 ≤
      (301 : Word).toNat :=
  ⟨rfl, by decide, by decide, .inl ⟨[], rfl⟩, by decide⟩
theorem witness_TheBackoffExpirySensesAgain :
    ({ backing with timer := 1 } : State).phase = .backingOff ∧ ({ backing with timer := 1 } : State).timer = 1 := by
  decide
theorem witness_AReceptionThatStopsIsDropped :
    running { receiving with timer := 1 } = true ∧ receiving.phase = .receiving := by decide
theorem witness_TheBackoffDelayIsBounded :
    Inv defaultParams jamEnds ∧ jamEnds.phase = .jamming ∧ jamEnds.timer = 1 ∧
    nextWith (exec .tick jamEnds) (fun t => decide (t.timer = 400)) = true ∧
    Inv defaultParams lastJamEnds ∧ lastJamEnds.phase = .jamming ∧
    nextWith (exec .tick lastJamEnds) (fun t => decide (t.sendPending = false)) = true :=
  ⟨inv_jamEnds, rfl, rfl, by decide, inv_lastJamEnds, rfl, by decide⟩

/-! ### Witnesses: frames, invariants, rules of the whole machine -/

theorem witness_AByteChangesOnlyTheSession :
    (∃ t, exec (.byte 0x07) listening = .next t) ∧ storeIndex listening 0x07 = some 0 ∧
    storeIndex almostFull 0x07 = some 68 ∧ storeIndex { almostFull with bufLen := 69 } 0x07 = none ∧
    storeIndex receiving 0x00 = none := ⟨⟨_, rfl⟩, by decide, by decide, by decide, by decide⟩
theorem witness_ATickChangesOnlyTheSession :
    nextWith (exec .tick { requested with timer := 1, lineIdleAns := [280] })
      (fun t => decide (t.phase = .transmitting)) = true ∧
    wireFrame defaultParams requested = some [0x05, 0x02, 0x01, 0x6B, 0x4C, 0x00] := by decide +kernel
theorem witness_EveryStepKeepsTheInvariants :
    Inv defaultParams State.reset ∧
    nextWith (step { State.reset with input := [0x03] }) (fun t => decide (t.fault = true)) = true :=
  ⟨inv_reset, by decide⟩
theorem witness_NoOperationFaultsFromAnInvariantState :
    Inv defaultParams jamEnds ∧ Instr.tick.wf = true := ⟨inv_jamEnds, rfl⟩
/-- The parameters farthest from the defaults. -/
def farthest : Params := ⟨checksum16, 11, 65273⟩

theorem legal_farthest : farthest.Legal := by unfold Params.Legal; decide

theorem inv_reset_farthest : Inv farthest State.reset := by
  constructor <;> first | decide | (intro h; exact absurd h (by decide))

theorem witness_TheInvariantsHoldForAllParameters :
    farthest.Legal ∧ Inv farthest State.reset ∧ Instr.tick.wf = true ∧
    execFor farthest .tick State.reset = .next State.reset ∧ stepFor farthest State.reset = .next State.reset :=
  ⟨legal_farthest, inv_reset_farthest, rfl, rfl, rfl⟩
theorem witness_ThePhaseFollowsTheTransitionTable :
    Inv defaultParams listening ∧
    nextWith (exec (.byte 0x07) listening) (fun t => decide (t.phase = .receiving)) = true :=
  ⟨inv_listening, by decide⟩
theorem witness_TheBlockNeverWritesWithTheLineOff :
    Inv defaultParams sending ∧ (Instr.byte 0x55).dir = .toBlock ∧
    nextWith (exec (.byte 0x55) sending) (fun t => decide (emitted sending t = [.write 0x00])) = true :=
  ⟨inv_sending, rfl, by decide⟩
/-- V94 reports; `CANCEL` does not. -/
theorem witness_ARequestThatEndsIsReportedOnce :
    Inv defaultParams requested ∧ Instr.cancel.dir = .toBlock ∧
    nextWith (exec .cancel requested) (fun t => decide (sendDones (emitted requested t) = 0)) = true ∧
    Inv defaultParams lastJamEnds ∧ Instr.tick.dir = .toBlock ∧
    nextWith (exec .tick lastJamEnds) (fun t => decide (sendDones (emitted lastJamEnds t) = 1)) = true :=
  ⟨inv_requested, rfl, by decide, inv_lastJamEnds, rfl, by decide⟩
theorem witness_OnlyAcceptedFramesAreDelivered :
    (Instr.byte 0).dir = .toBlock ∧
    nextWith (exec (.byte 0) received)
      (fun t => decide (.rxdeliver 0x02 2 [0x42, 0x42] ∈ emitted received t)) = true := by decide +kernel
theorem witness_QuestionsAreAskedOnlyAtTheTwoExpiries :
    nextWith (exec .tick { listening with timer := 1, lineIdleAns := [280] })
      (fun t => decide (t.asked = [.lineIdle])) = true ∧
    nextWith (exec .tick jamEnds) (fun t => decide (t.asked = [.random 301])) = true := by decide
theorem witness_EveryAttemptSendsTheSameFrame :
    Inv defaultParams sending ∧ sending.sendPending = true ∧
    nextWith (exec (.byte 0x55) sending) (fun t => t.sendPending) = true := ⟨inv_sending, rfl, by decide⟩
theorem witness_UnspecifiedBytesAreNeverRead :
    (Instr.byte 0x07).wf = true ∧ SameButStale receiving { receiving with buf := receiving.buf ++ [(3, 0x99)] } ∧
    nextWith (exec (.byte 0x07) receiving) (fun t => decide (t.bufLen = 4)) = true :=
  ⟨rfl, ⟨rfl, by decide, by decide⟩, by decide⟩

/-! ### Witnesses: runs -/

theorem witness_AnEncodedFrameIsReceivedWhole :
    Inv defaultParams listening ∧ listening.phase = .sensingCarrier ∧
    (List.replicate 64 0x55#8).length ≤ listening.maxPayload.toNat := ⟨inv_listening, rfl, by decide⟩
theorem witness_ASendOnAQuietBusSucceeds :
    Inv defaultParams requested ∧ requested.phase = .sensingCarrier ∧ requested.sendPending = true ∧
    requested.timer ≠ 0 ∧ requested.lineIdleAns = [] ∧ requested.ifgTicks.toNat ≤ (280 : Word).toNat :=
  ⟨inv_requested, rfl, rfl, by decide, rfl, by decide⟩
/-- Node 0x01 with the frame V32 and node 0x02 with the frame V37: their first bytes differ; a harness byte that
differs from both. -/
theorem witness_TwoTransmittersThatDifferBothJam :
    Inv defaultParams sending ∧ sending.phase = .transmitting ∧ 1 < sending.timer.toNat ∧
    Inv defaultParams other ∧ other.phase = .transmitting ∧ 1 < other.timer.toNat ∧
    bufRead sending sending.idx.toNat = some 0x05 ∧ bufRead other other.idx.toNat = some 0x06 ∧
    (0x05 : Byte) ≠ 0x06 ∧ (0x07 : Byte) ≠ 0x05 ∧ (0x07 : Byte) ≠ 0x06 ∧ 0 + 80 = 79 + 1 :=
  ⟨inv_sending, rfl, by decide, inv_other, rfl, by decide, by decide, by decide, by decide, by decide, by decide,
    rfl⟩
theorem witness_NoOperationFaultsForAnyParameters :
    farthest.Legal ∧ Inv farthest State.reset ∧ (Instr.send 0xFF 2 [0x41, 0x41]).wf = true :=
  ⟨legal_farthest, inv_reset_farthest, rfl⟩
/-- The three kinds of entry: a question and outputs, a return value. -/
theorem witness_ATraceIsReadBackEntryByEntry :
    Instr.tick.wf = true ∧ Instr.tick.dir = .toBlock ∧ Instr.cancel.wf = true ∧ Instr.cancel.dir = .toBlock ∧
    requested.input = [] ∧ requested.lineIdleAns = [] ∧ requested.randomAns = [] ∧
    (∃ t, execFor defaultParams .cancel requested = .next t) ∧
    ∃ t, execFor defaultParams .tick { jamming with timer := 1 } = .next t := by
  refine ⟨rfl, rfl, rfl, rfl, rfl, rfl, rfl, ⟨_, rfl⟩, ?_⟩
  simp [execFor, tickElapses, expiry, jammingExpiry, enterBackoff, askRandom, emit, jamming, sending, requested,
    listening, unlocked, State.reset, backoffLo, backoffHi, decode]

end Sys2Proof.Tests
end

/-!
SUPPORT. The family 00_scope.md: the core is the machine of every deployment at the defaults (R6), and in no deployment
does an operation fault from a state that satisfies the invariants (R6, R62, R116, R232). Before the proofs stand what
validation guarantees, the sizes of encoded frames, and one lemma per procedure that says when it ends in a next state.
-/

namespace Sys2Proof

open Machine

/-! ### The core at the defaults -/

namespace Machine

theorem exec_eq_execFor (i : Instr) (s : State) : exec i s = execFor defaultParams i s := by
  cases i <;> rfl

theorem step_eq_stepFor (s : State) : step s = stepFor defaultParams s := by
  unfold step stepFor
  cases fetch s with
  | run i u => simp only [exec_eq_execFor]
  | wait => rfl
  | refuse r => rfl

end Machine

/-- Settles O58: the two dispatches have the same fifteen arms, and `step` uses nothing else of the parameters. -/
theorem theCoreIsTheMachineAtTheDefaults : Obligations.TheCoreIsTheMachineAtTheDefaults :=
  ⟨exec_eq_execFor, step_eq_stepFor⟩

namespace Machine

/-! ### What validation guarantees (42_timing_config.md R153) -/

/-- Each rule has a bit of its own in the mask. -/
theorem failBits_eq_zero : ∀ v1 v2 v3 v4 v5 v6 : Bool,
    failBit v1 0 ||| failBit v2 1 ||| failBit v3 2 ||| failBit v4 3 ||| failBit v5 4 ||| failBit v6 5 = 0#6 ↔
      v1 = true ∧ v2 = true ∧ v3 = true ∧ v4 = true ∧ v5 = true ∧ v6 = true := by
  decide

/-- A configuration is valid exactly when it meets the six bounds of R153. -/
theorem validateConfig_eq_zero {P : Params} {s : State} :
    validateConfig P s = 0#6 ↔
      1 ≤ s.bitTicks.toNat ∧ 2 * charTicks P s ≤ s.ifgTicks.toNat ∧ charTicks P s ≤ s.jamTicks.toNat ∧
      s.backoffMin.toNat ≤ s.backoffMax.toNat ∧ s.backoffMax.toNat * 2 ^ s.maxRetries.toNat ≤ 2 ^ 32 - 1 ∧
      s.maxPayload.toNat ≤ P.payloadCap := by
  unfold validateConfig
  rw [failBits_eq_zero]
  simp only [rulePassesV1, rulePassesV2, rulePassesV3, rulePassesV4, rulePassesV5, rulePassesV6, decide_eq_true_eq]

/-! ### Sizes of encoded frames (30_encoding.md R84, 40_frame_codec.md R116) -/

/-- The loop adds one code byte for the final block and at most one for every 254 bytes. -/
theorem stuffLoop_length_le (d blk : List Byte) (hblk : blk.length < 254) :
    (stuffLoop blk d).length ≤ stuffMax (blk.length + d.length) := by
  induction d generalizing blk with
  | nil => simp [stuffLoop, stuffBlock, stuffMax]
  | cons b d ih =>
    have hnil : (stuffLoop [] d).length ≤ stuffMax (0 + d.length) := ih [] (by simp)
    simp only [stuffLoop]
    split_ifs with hzero hfull
    · simp only [List.length_append, stuffBlock, List.length_cons, stuffMax] at hnil ⊢
      omega
    · simp only [List.length_append, stuffBlock, List.length_cons, List.length_nil, stuffMax] at hnil hfull ⊢
      omega
    · have hrest := ih (blk ++ [b]) (by simp at hfull ⊢; omega)
      simp only [List.length_append, List.length_cons, List.length_nil] at hrest ⊢
      rwa [Nat.add_right_comm, Nat.add_assoc] at hrest

theorem stuffEncode_length_le (d : List Byte) : (stuffEncode d).length ≤ stuffMax d.length := by
  simpa [stuffEncode] using stuffLoop_length_le d [] (by simp)

theorem rawFrame_length (checksum : List Byte → Half) (dst src : Byte) (payload : List Byte) :
    (rawFrame checksum dst src payload).length = rawLen payload.length := by
  simp [rawFrame, checksumBytes, rawLen]

theorem stuffMax_mono {m n : Nat} (h : m ≤ n) : stuffMax m ≤ stuffMax n := by
  unfold stuffMax
  omega

theorem wireMax_le_bufCap {P : Params} {n : Nat} (h : n ≤ P.payloadCap) : wireMax n ≤ bufCap P := by
  have := stuffMax_mono (Nat.add_le_add_right h 4)
  simp only [bufCap, wireMax, rawLen]
  omega

/-- `BUF_CAP` of a legal deployment fits the 16-bit `BUFLEN` (92_eei_decisions.md). -/
theorem bufCap_lt_of_legal {P : Params} (h : P.Legal) : bufCap P < 2 ^ 16 := by
  have hcap : P.payloadCap ≤ 65273 := h.2
  simp only [bufCap, wireMax, stuffMax, rawLen]
  omega

/-- A payload within the limit has a wire frame, of at least one and at most `WireMax` bytes (R116). -/
theorem encodeFrame_exists {checksum : List Byte → Half} {maxPayload : Half} {payload : List Byte} (dst src : Byte)
    (h : payload.length ≤ maxPayload.toNat) :
    ∃ b w, encodeFrame checksum maxPayload dst src payload = some (b :: w) ∧
      w.length + 1 ≤ wireMax payload.length := by
  have hlen := stuffEncode_length_le (rawFrame checksum dst src payload)
  rw [rawFrame_length] at hlen
  obtain ⟨b, w, hw⟩ := List.exists_cons_of_ne_nil
    (List.append_ne_nil_of_right_ne_nil (stuffEncode (rawFrame checksum dst src payload)) (List.cons_ne_nil delim []))
  refine ⟨b, w, by rw [encodeFrame, if_neg (by omega), hw], ?_⟩
  have hcons := congrArg List.length hw
  simp only [List.length_append, List.length_cons, List.length_nil] at hcons
  simp only [wireMax]
  omega

end Machine

/-! ### What the invariants give a running block -/

namespace Inv

variable {P : Params} {s : State}

/-- Something is timed only while running (R52 item 2). -/
theorem running_of_timer (h : Inv P s) (ht : s.timer ≠ 0) : running s = true := by
  by_contra hrun
  obtain ⟨_, _, htimer, _, _⟩ := h.notRunning (by simpa using hrun)
  exact ht htimer

theorem validateConfig_of_running (h : Inv P s) (hrun : running s = true) : validateConfig P s = 0#6 :=
  h.validated ((running_iff s).mp hrun).1

theorem maxPayload_le (h : Inv P s) (hrun : running s = true) : s.maxPayload.toNat ≤ P.payloadCap := by
  obtain ⟨_, _, _, _, _, v6⟩ := validateConfig_eq_zero.mp (h.validateConfig_of_running hrun)
  exact v6

/-- V4: the scaled range is not empty (44_backoff.md R232). -/
theorem backoffLo_le_backoffHi (h : Inv P s) (hrun : running s = true) : backoffLo s ≤ backoffHi s := by
  obtain ⟨_, _, _, v4, _, _⟩ := validateConfig_eq_zero.mp (h.validateConfig_of_running hrun)
  exact Nat.mul_le_mul_right _ v4

/-- V5 and R52 item 9: the scaled range fits the timer (R232). -/
theorem backoffHi_lt (h : Inv P s) (hrun : running s = true) : backoffHi s < 2 ^ 32 := by
  obtain ⟨_, _, _, _, v5, _⟩ := validateConfig_eq_zero.mp (h.validateConfig_of_running hrun)
  calc backoffHi s
      ≤ s.backoffMax.toNat * 2 ^ s.maxRetries.toNat :=
        Nat.mul_le_mul_left _ (Nat.pow_le_pow_right (by decide) h.retryBound)
    _ < 2 ^ 32 := by omega

/-- `RX_LIMIT` leaves room in `BUF` for the byte that is stored below it (R62, R200). -/
theorem rxLimit_lt_bufCap (h : Inv P s) (hrun : running s = true) : rxLimit s < bufCap P := by
  show wireMax s.maxPayload.toNat ≤ bufCap P
  exact wireMax_le_bufCap (h.maxPayload_le hrun)

/-- A pending request has a wire frame, and `BUF` has room for it (R116). -/
theorem wireFrame_exists (h : Inv P s) (hrun : running s = true) (hpend : s.sendPending = true) :
    ∃ b w, wireFrame P s = some (b :: w) ∧ w.length + 1 ≤ bufCap P := by
  obtain ⟨hlen, p, hp⟩ := h.request hpend
  rw [← txPayRead_length hp] at hlen
  obtain ⟨b, w, hw, hle⟩ := encodeFrame_exists (checksum := P.checksum) s.txDst s.localAddr hlen
  have hcap := wireMax_le_bufCap (hlen.trans (h.maxPayload_le hrun))
  exact ⟨b, w, by simp only [wireFrame, hp, hw], hle.trans hcap⟩

/-- Below `BUFLEN` every byte of the current attempt can be read (R62). -/
theorem bufRead_of_transmitting (h : Inv P s) (hp : s.phase = .transmitting) {k : Nat} (hk : k < s.bufLen.toNat) :
    ∃ b, bufRead s k = some b := by
  obtain ⟨w, _, hbuf⟩ := h.attempt (.inl (.inl hp))
  have hlen := bufBytes_length hbuf
  exact ⟨w[k], by rw [bufRead_of_bufBytes hbuf k hk, List.getElem?_eq_getElem]⟩

end Inv

/-! ### When the procedures end in a next state -/

namespace Machine

variable {P : Params} {s : State}

theorem requestSend_completes (h : Inv P s) (dst : Byte) {len : Half} {payload : List Byte}
    (hlen : payload.length = len.toNat) : ∃ t, requestSend P dst len payload s = .next t := by
  unfold requestSend
  split_ifs with hrun hpend hlarge
  · exact ⟨_, rfl⟩
  · exact ⟨_, rfl⟩
  · exact ⟨_, rfl⟩
  · have hmax := h.maxPayload_le (by simpa using hrun)
    exact ⟨_, andThen_eq_next.mpr ⟨_, txPayWrite_eq_next.mpr ⟨by omega, rfl⟩, rfl⟩⟩

theorem rxStore_completes (b : Byte) (hroom : rxLimit s < bufCap P) : ∃ t, rxStore P b s = .next t := by
  by_cases hlt : s.bufLen.toNat < rxLimit s
  · exact ⟨_, rxStore_eq_next.mpr (.inl ⟨hlt, by omega, rfl⟩)⟩
  · exact ⟨_, rxStore_eq_next.mpr (.inr ⟨by omega, rfl⟩)⟩

theorem rxComplete_completes {body : List Byte} (hbody : bufBytes s = some body) :
    ∃ t, rxComplete P s = .next t := by
  cases hovf : s.rxOvf with
  | true => exact ⟨_, rxComplete_eq_next.mpr (.inl ⟨hovf, rfl⟩)⟩
  | false => exact ⟨_, rxComplete_eq_next.mpr (.inr ⟨hovf, body, hbody, rfl⟩)⟩

theorem rxByte_completes (b : Byte) {body : List Byte} (hroom : rxLimit s < bufCap P)
    (hbody : bufBytes s = some body) : ∃ t, rxByte P b s = .next t := by
  unfold rxByte
  split_ifs
  · exact rxComplete_completes hbody
  · exact rxStore_completes b hroom

theorem echoByte_completes (h : Inv P s) (hp : s.phase = .transmitting) (b : Byte) :
    ∃ t, echoByte b s = .next t := by
  have hidx := h.transmitting hp
  obtain ⟨e, he⟩ := h.bufRead_of_transmitting hp hidx
  by_cases hbe : b = e
  · by_cases hlast : s.idx + 1 = s.bufLen
    · exact ⟨_, echoByte_eq_next.mpr ⟨e, he, .inl ⟨hbe, hlast, rfl⟩⟩⟩
    · have hnext : (s.idx + 1).toNat < s.bufLen.toNat := by bv_omega
      obtain ⟨w, hw⟩ := h.bufRead_of_transmitting hp hnext
      exact ⟨_, echoByte_eq_next.mpr ⟨e, he, .inr (.inl ⟨hbe, hlast, w, hw, rfl⟩)⟩⟩
  · exact ⟨_, echoByte_eq_next.mpr ⟨e, he, .inr (.inr ⟨hbe, rfl⟩)⟩⟩

/-- `BYTE`, phase by phase (R177). -/
theorem byteArrives_completes (h : Inv P s) (b : Byte) : ∃ t, byteArrives P b s = .next t := by
  unfold byteArrives
  split_ifs with hrun
  · exact ⟨s, rfl⟩
  · replace hrun : running s = true := by simpa using hrun
    have hroom := h.rxLimit_lt_bufCap hrun
    cases hp : s.phase with
    | idle => exact absurd hp (h.runningPhase hrun)
    | sensingCarrier =>
      have hempty : bufBytes (enterReceiving s) = some [] := rfl
      exact rxByte_completes b hroom hempty
    | transmitting => exact echoByte_completes h hp b
    | jamming => exact ⟨_, rfl⟩
    | backingOff => exact ⟨_, rfl⟩
    | receiving =>
      obtain ⟨_, body, hbody, _⟩ := h.receiving hp
      exact rxByte_completes b hroom hbody

theorem beginTransmit_completes (hP : P.Legal) {b : Byte} {w : List Byte} (hw : wireFrame P s = some (b :: w))
    (hroom : w.length + 1 ≤ bufCap P) : ∃ t, beginTransmit P s = .next t := by
  have hcap := bufCap_lt_of_legal hP
  have hpos : 0 < (BitVec.ofNat 16 (w.length + 1)).toNat := by
    rw [BitVec.toNat_ofNat, Nat.mod_eq_of_lt (by omega)]
    omega
  exact ⟨_, beginTransmit_eq_next.mpr ⟨b, w, hw, hroom, hpos, rfl⟩⟩

/-- Whatever the answer, the sensing expiry finds a wire frame to send where it sends (R186). -/
theorem sensingExpiry_completes (hP : P.Legal)
    (hframe : s.sendPending = true → ∃ b w, wireFrame P s = some (b :: w) ∧ w.length + 1 ≤ bufCap P) :
    ∃ t, sensingExpiry P s = .next t := by
  obtain ⟨q, u, hu⟩ := lineIdleAnswered_exists s
  by_cases hq : q.toNat < u.ifgTicks.toNat
  · exact ⟨_, sensingExpiry_eq_next.mpr ⟨q, u, hu, .inl ⟨hq, rfl⟩⟩⟩
  · cases hpend : u.sendPending with
    | false => exact ⟨u, sensingExpiry_eq_next.mpr ⟨q, u, hu, .inr (.inr ⟨by omega, hpend, rfl⟩)⟩⟩
    | true =>
      have hsame := lineIdleAnswered_eq hu
      have hpend' : s.sendPending = u.sendPending := (congrArg State.sendPending hsame).symm
      have hframe' : wireFrame P u = wireFrame P s := (congrArg (wireFrame P) hsame).trans rfl
      obtain ⟨b, w, hw, hroom⟩ := hframe (hpend'.trans hpend)
      obtain ⟨t, ht⟩ := beginTransmit_completes hP (hframe'.trans hw) hroom
      exact ⟨t, sensingExpiry_eq_next.mpr ⟨q, u, hu, .inr (.inl ⟨by omega, hpend, ht⟩)⟩⟩

/-- A draw from a range that fits the timer is taken, or refused as outside it (44_backoff.md R231, R264). -/
theorem enterBackoff_completes_or_refuses (hlo : backoffLo s ≤ backoffHi s) (hhi : backoffHi s < 2 ^ 32) :
    (∃ t, enterBackoff s = .next t) ∨ enterBackoff s = .refused .randomOutOfRange := by
  cases hask : askRandom (backoffHi s - backoffLo s + 1) s with
  | none => exact .inr ((enterBackoff_eq_refused hlo hhi).mpr (askRandom_eq_none.mp hask))
  | some xu =>
    exact .inl ⟨_, enterBackoff_eq_next.mpr ⟨hlo, hhi, xu.1, xu.2, askRandom_eq_some.mp hask, rfl⟩⟩

/-- The expiry rules, phase by phase (R178): only the one of `Jamming` can be refused. -/
theorem expiry_completes_or_refuses (hP : P.Legal) (hidle : s.phase ≠ .idle)
    (hframe : s.sendPending = true → ∃ b w, wireFrame P s = some (b :: w) ∧ w.length + 1 ≤ bufCap P)
    (hlo : backoffLo s ≤ backoffHi s) (hhi : backoffHi s < 2 ^ 32) :
    (∃ t, expiry P s = .next t) ∨ (expiry P s = .refused .randomOutOfRange ∧ s.phase = .jamming) := by
  unfold expiry
  cases hp : s.phase with
  | idle => exact absurd hp hidle
  | sensingCarrier => exact .inl (sensingExpiry_completes hP hframe)
  | transmitting => exact .inl ⟨_, rfl⟩
  | jamming =>
    have hdraw := enterBackoff_completes_or_refuses (s := emit (.txen false) { s with txen := false }) hlo hhi
    exact hdraw.imp_right fun href => ⟨href, rfl⟩
  | backingOff => exact .inl ⟨_, rfl⟩
  | receiving => exact .inl ⟨_, rfl⟩

/-- `TICK` (R178): only the tick that ends a jam can be refused. -/
theorem tickElapses_completes_or_refuses (hP : P.Legal) (h : Inv P s) :
    (∃ t, tickElapses P s = .next t) ∨
    (tickElapses P s = .refused .randomOutOfRange ∧ s.phase = .jamming ∧ s.timer = 1) := by
  by_cases hzero : s.timer = 0
  · exact .inl ⟨s, tickElapses_eq_next.mpr (.inl ⟨hzero, rfl⟩)⟩
  · by_cases hone : s.timer = 1
    · have hexpiry : tickElapses P s = expiry P { s with timer := 0 } := by simp [tickElapses, hone]
      have hrun := h.running_of_timer hzero
      have hends := expiry_completes_or_refuses (s := { s with timer := 0 }) hP (h.runningPhase hrun)
        (h.wireFrame_exists hrun) (h.backoffLo_le_backoffHi hrun) (h.backoffHi_lt hrun)
      rw [hexpiry]
      exact hends.imp_right fun ⟨href, hp⟩ => ⟨href, hp, hone⟩
    · exact .inl ⟨_, tickElapses_eq_next.mpr (.inr (.inr ⟨by bv_omega, rfl⟩))⟩

end Machine

/-- Settles O57, operation by operation: only `SEND`, `BYTE` and `TICK` can stop, and the invariants rule out
every stop but the refusal of a draw outside its range. -/
theorem noOperationFaultsForAnyParameters : Obligations.NoOperationFaultsForAnyParameters := by
  intro P s i hP h hwf
  cases i with
  | send dst len payload => exact .inl (requestSend_completes h dst (by simpa [Instr.wf] using hwf))
  | byte b => exact .inl (byteArrives_completes h b)
  | tick =>
    exact (tickElapses_completes_or_refuses hP h).imp_right fun ⟨href, hp, ht⟩ => ⟨href, rfl, hp, ht⟩
  | reset | cfgwr | rdreg | init | cancel | lineidle | random | txen | write | senddone | rxdeliver | drop =>
    exact .inl ⟨_, rfl⟩

end Sys2Proof

/-!
SUPPORT. The family 10_state.md: the codes of the phases (R35), deadlines (R41), the invariants in every deployment
(R52), and the bytes of the memories that no rule reads (R45, R46). `Inv` is taken apart here into what it says of a
block that serves, whatever its phase (`Serving`), what each phase adds, and what it says of a block at rest
(`Resting`); each procedure is then followed from one of these to `Inv`.
-/

namespace Sys2Proof

open Machine

/-! ### Phases and deadlines -/

/-- Settles O15: each code is the one that the table of R35 lists. -/
theorem phaseCodesFollowTheListing : Obligations.PhaseCodesFollowTheListing :=
  ⟨rfl, rfl, rfl, rfl, rfl, rfl⟩

namespace Machine

/-- A deadline more than one tick away is only counted down (R41, R178). -/
theorem exec_tick_of_one_lt {s : State} (h : 1 < s.timer.toNat) :
    exec .tick s = .next { s with timer := s.timer - 1 } :=
  tickElapses_eq_next.mpr (.inr (.inr ⟨h, rfl⟩))

end Machine

/-- Settles O31, by induction on the number of ticks, the first of which counts the deadline down by one. -/
theorem aDeadlineLastsAsManyTicksAsArmed : Obligations.ADeadlineLastsAsManyTicksAsArmed := by
  intro s n
  induction n generalizing s with
  | zero =>
    intro _
    have hzero : s.timer - BitVec.ofNat 32 0 = s.timer := by bv_omega
    rw [hzero]
    rfl
  | succ n ih =>
    intro h
    have htail := ih { s with timer := s.timer - 1 } (show n < (s.timer - 1).toNat by bv_omega)
    have htimer : s.timer - 1 - BitVec.ofNat 32 n = s.timer - BitVec.ofNat 32 (n + 1) := by bv_omega
    calc runScript (scriptTicks (n + 1)) s
        = andThen (exec .tick s) (runScript (scriptTicks n)) := rfl
      _ = runScript (scriptTicks n) { s with timer := s.timer - 1 } := by
        rw [exec_tick_of_one_lt (by omega), andThen_next]
      _ = .next { s with timer := s.timer - BitVec.ofNat 32 (n + 1) } := by rw [htail, ← htimer]

/-! ### What the invariants say in every phase, and what each phase adds (10_state.md R52) -/

/-- What the invariants say of a running block in every phase: nothing here depends on the phase, the timer, the
transmit enable, `BUFLEN`, `IDX` or `RX_OVF`. -/
structure Serving (P : Params) (s : State) : Prop where
  running : running s = true
  validated : validateConfig P s = 0#6
  cfgErr : s.cfgErr = 0
  retryBound : s.retry.toNat ≤ s.maxRetries.toNat
  retryClear : s.sendPending = false → s.retry = 0
  request : s.sendPending = true → s.txLen.toNat ≤ s.maxPayload.toNat ∧ ∃ p, txPayRead s = some p
  txPayWf : Memory.wf s.txPay
  bufWf : Memory.wf s.buf

/-- What the invariants say of a block that is not running: the registers of a session are at rest (R52 item 2). -/
structure Resting (s : State) : Prop where
  phase : s.phase = .idle
  txen : s.txen = false
  timer : s.timer = 0
  sendPending : s.sendPending = false
  bufLen : s.bufLen = 0
  retry : s.retry = 0
  rxOvf : s.rxOvf = false
  memories : Memory.wf s.txPay ∧ Memory.wf s.buf

namespace Inv

variable {P : Params} {s : State}

theorem serving (h : Inv P s) (hrun : running s = true) : Serving P s where
  running := hrun
  validated := h.validateConfig_of_running hrun
  cfgErr := by
    obtain ⟨_, hfault⟩ := (running_iff s).mp hrun
    by_contra herr
    exact absurd (h.cfgErr.mp herr) (by simp [hfault])
  retryBound := h.retryBound
  retryClear := h.retryClear
  request := h.request
  txPayWf := h.memories.1
  bufWf := h.memories.2

theorem resting (h : Inv P s) (hrun : running s = false) : Resting s := by
  obtain ⟨hphase, htxen, htimer, hpend, hlen⟩ := h.notRunning hrun
  refine ⟨hphase, htxen, htimer, hpend, hlen, h.retryClear hpend, ?_, h.memories⟩
  by_contra hovf
  exact absurd (h.overflow (by simpa using hovf)) (by simp [hphase])

theorem txen_eq_false (h : Inv P s) (hp : ¬Driving s.phase) : s.txen = false := by
  by_contra htxen
  exact hp (h.driving.mp (by simpa using htxen))

theorem rxOvf_eq_false (h : Inv P s) (hp : s.phase ≠ .receiving) : s.rxOvf = false := by
  by_contra hovf
  exact hp (h.overflow (by simpa using hovf))

/-- The invariants say nothing of what the environment has delivered and been given (logs 1, 3, 5, 6). -/
theorem boundary {input : List Byte} {lineIdleAns randomAns : List Word} {asked : List Question} {out : List Output}
    {ret : Option Word} (h : Inv P s) :
    Inv P { s with
      input := input, lineIdleAns := lineIdleAns, randomAns := randomAns, asked := asked, out := out, ret := ret } :=
  { h with }

end Inv

namespace Resting

variable {P : Params} {s : State}

/-- A block at rest whose configuration is not locked satisfies the invariants. -/
theorem inv (h : Resting s) (hvalid : s.cfgValid = false) (herr : s.cfgErr ≠ 0 ↔ s.fault = true) : Inv P s where
  modes hboth := by simp [hvalid] at hboth
  notRunning _ := ⟨h.phase, h.txen, h.timer, h.sendPending, h.bufLen⟩
  runningPhase hrun := by simp [running, hvalid] at hrun
  driving := by simp [h.txen, h.phase, Driving]
  pendingPhase hp := by simp [h.phase, Driving] at hp
  timed hp := by simp [h.phase, Driving] at hp
  transmitting hp := by simp [h.phase] at hp
  attempt hp := by simp [h.phase, Driving] at hp
  receiving hp := by simp [h.phase] at hp
  retryBound := by simp [h.retry]
  retryClear _ := h.retry
  validated hlocked := by simp [hvalid] at hlocked
  cfgErr := herr
  overflow hovf := by simp [h.rxOvf] at hovf
  request hpend := by simp [h.sendPending] at hpend
  memories := h.memories

theorem configured (c : Configuration) (h : Resting s) : Resting (configured c s) :=
  { h with }

/-- A configuration that passes validation makes a block at rest ready to serve (42_timing_config.md R152). -/
theorem serving_of_valid (h : Resting s) (hvalid : validateConfig P s = 0#6) (hfault : s.fault = false)
    (herr : s.cfgErr = 0) : Serving P { s with cfgValid := true } where
  running := by simp [running, hfault]
  validated := hvalid
  cfgErr := herr
  retryBound := by simp [h.retry]
  retryClear _ := h.retry
  request hpend := absurd hpend (by simp [h.sendPending])
  txPayWf := h.memories.1
  bufWf := h.memories.2

end Resting

namespace Serving

variable {P : Params} {s : State}

theorem fault (h : Serving P s) : s.fault = false := ((running_iff s).mp h.running).2

/-! V1 to V3 keep the two periods that are armed above 0 (42_timing_config.md R153). -/

theorem charTicks_pos (hP : P.Legal) (h : Serving P s) : 0 < charTicks P s := by
  obtain ⟨v1, _⟩ := validateConfig_eq_zero.mp h.validated
  have hbits : 0 < P.charBits := by
    rcases hP.1 with hbits | hbits <;> omega
  exact Nat.mul_pos hbits v1

theorem ifgTicks_ne_zero (hP : P.Legal) (h : Serving P s) : s.ifgTicks ≠ 0 := by
  have hchar := h.charTicks_pos hP
  obtain ⟨_, v2, _⟩ := validateConfig_eq_zero.mp h.validated
  rintro hzero
  simp [hzero] at v2
  omega

theorem jamTicks_ne_zero (hP : P.Legal) (h : Serving P s) : s.jamTicks ≠ 0 := by
  have hchar := h.charTicks_pos hP
  obtain ⟨_, _, v3, _⟩ := validateConfig_eq_zero.mp h.validated
  rintro hzero
  simp [hzero] at v3
  omega

/-- V6 and `PAYLOAD_CAP`: the lengths that `Receiving` counts fit `BUFLEN`. -/
theorem rxLimit_lt (hP : P.Legal) (h : Serving P s) : rxLimit s < 2 ^ 16 := by
  obtain ⟨_, _, _, _, _, v6⟩ := validateConfig_eq_zero.mp h.validated
  have hwire : rxLimit s < bufCap P := wireMax_le_bufCap v6
  exact hwire.trans (bufCap_lt_of_legal hP)

/-! #### Which updates a serving block survives -/

/-- The registers of a session, the session buffer and the boundary may change in any way. -/
theorem session {phase : Phase} {idx bufLen : Half} {rxOvf txen : Bool} {timer : Word} {buf : Memory}
    {input : List Byte} {lineIdleAns randomAns : List Word} {asked : List Question} {out : List Output}
    {ret : Option Word} (h : Serving P s) (hbuf : Memory.wf buf) :
    Serving P { s with
      phase := phase, idx := idx, bufLen := bufLen, rxOvf := rxOvf, txen := txen, timer := timer, buf := buf,
      input := input, lineIdleAns := lineIdleAns, randomAns := randomAns, asked := asked, out := out, ret := ret } :=
  { h with bufWf := hbuf }

/-- The request may end: reported, cancelled or given up (43_mac.md R175, R192). -/
theorem withdrawn (h : Serving P s) : Serving P { s with sendPending := false, retry := 0 } :=
  { h with
    retryBound := Nat.zero_le _
    retryClear := fun _ => rfl
    request := fun hpend => absurd hpend Bool.false_ne_true }

/-- A request of at most `MAX_PAYLOAD` bytes may be latched (R174). -/
theorem latched {dst : Byte} {len : Half} {payload : List Byte} (h : Serving P s)
    (hlen : payload.length = len.toNat) (hmax : len.toNat ≤ s.maxPayload.toNat) :
    Serving P { s with
      txDst := dst, txLen := len, txPay := Memory.writeBytes s.txPay 0 payload, sendPending := true, retry := 0 } :=
  have hread : Memory.readBytes (Memory.writeBytes s.txPay 0 payload) 0 len.toNat = some payload := by
    rw [← hlen, Memory.readBytes_writeBytes]
  { h with
    retryBound := Nat.zero_le _
    retryClear := fun _ => rfl
    request := fun _ => ⟨hmax, payload, hread⟩
    txPayWf := Memory.writeBytes_wf h.txPayWf 0 payload }

/-- A pending request may be tried again within `MAX_RETRIES` (44_backoff.md R234). -/
theorem retried (h : Serving P s) (hpend : s.sendPending = true)
    (hbound : (s.retry + 1).toNat ≤ s.maxRetries.toNat) : Serving P { s with retry := s.retry + 1 } :=
  { h with
    retryBound := hbound
    retryClear := fun hno => absurd (hpend.symm.trans hno) (by decide) }

/-! #### What each phase adds -/

/-- The items of R52 that a phase has a say in, put together with the ones that hold in every phase. -/
theorem inv (h : Serving P s) (hidle : s.phase ≠ .idle) (hdriving : s.txen = true ↔ Driving s.phase)
    (htimed : Driving s.phase ∨ s.phase = .backingOff ∨ s.phase = .receiving → s.timer ≠ 0)
    (hpending : Driving s.phase ∨ s.phase = .backingOff →
      s.sendPending = true ∧ ∃ w, wireFrame P s = some w ∧ bufBytes s = some w)
    (htransmitting : s.phase = .transmitting → s.idx.toNat < s.bufLen.toNat)
    (hreceiving : s.phase = .receiving → s.bufLen.toNat ≤ rxLimit s ∧ ∃ body, bufBytes s = some body ∧ delim ∉ body)
    (hovf : s.rxOvf = true → s.phase = .receiving) : Inv P s where
  modes hboth := absurd hboth.2 (by simp [h.fault])
  notRunning hrun := absurd hrun (by simp [h.running])
  runningPhase _ := hidle
  driving := hdriving
  pendingPhase hp := (hpending hp).1
  timed := htimed
  transmitting := htransmitting
  attempt hp := (hpending hp).2
  receiving := hreceiving
  retryBound := h.retryBound
  retryClear := h.retryClear
  validated _ := h.validated
  cfgErr := by simp [h.cfgErr, h.fault]
  overflow := hovf
  request := h.request
  memories := ⟨h.txPayWf, h.bufWf⟩

theorem inv_of_sensing (h : Serving P s) (hp : s.phase = .sensingCarrier) (htxen : s.txen = false)
    (hovf : s.rxOvf = false) : Inv P s := by
  apply h.inv <;> simp [hp, htxen, hovf, Driving]

theorem inv_of_receiving (h : Serving P s) (hp : s.phase = .receiving) (htxen : s.txen = false) (htimer : s.timer ≠ 0)
    (hlimit : s.bufLen.toNat ≤ rxLimit s) {body : List Byte} (hbody : bufBytes s = some body) (hdelim : delim ∉ body) :
    Inv P s :=
  h.inv (by simp [hp]) (by simp [hp, htxen, Driving]) (fun _ => htimer) (by simp [hp, Driving]) (by simp [hp])
    (fun _ => ⟨hlimit, body, hbody, hdelim⟩) (fun _ => hp)

/-- `Transmitting`, `Jamming` and `BackingOff`: the phases of an attempt that has begun. -/
theorem inv_of_attempt (h : Serving P s) (hp : Driving s.phase ∨ s.phase = .backingOff)
    (hdriving : s.txen = true ↔ Driving s.phase) (htimer : s.timer ≠ 0) (hovf : s.rxOvf = false)
    (hpend : s.sendPending = true) {w : List Byte} (hframe : wireFrame P s = some w) (hbuf : bufBytes s = some w)
    (hidx : s.phase = .transmitting → s.idx.toNat < s.bufLen.toNat) : Inv P s := by
  have hidle : s.phase ≠ .idle := fun hidle => by simp [hidle, Driving] at hp
  have hrec : s.phase ≠ .receiving := fun hrec => by simp [hrec, Driving] at hp
  exact h.inv hidle hdriving (fun _ => htimer) (fun _ => ⟨hpend, w, hframe, hbuf⟩) hidx (fun h' => absurd h' hrec)
    (fun h' => absurd (hovf.symm.trans h') (by decide))

end Serving

/-! ### The procedures of the media access controller keep the invariants (43_mac.md, 44_backoff.md) -/

namespace Serving

variable {P : Params} {s : State}

theorem enterIdle_inv (h : Serving P s) (htxen : s.txen = false) : Inv P (enterIdle s) := by
  rw [enterIdle_of_running h.running]
  exact (h.session h.bufWf).inv_of_sensing rfl htxen rfl

theorem completeSend_inv (status : Byte) (h : Serving P s) (htxen : s.txen = false) :
    Inv P (completeSend status s) := by
  rw [completeSend_of_running status h.running]
  exact (h.withdrawn.session h.bufWf).inv_of_sensing rfl htxen rfl

theorem enterReceiving_inv (hP : P.Legal) (h : Serving P s) (htxen : s.txen = false) :
    Inv P (enterReceiving s) :=
  Serving.inv_of_receiving (s := enterReceiving s) (h.session h.bufWf) rfl htxen (h.ifgTicks_ne_zero hP) (Nat.zero_le _)
    (body := []) rfl (by simp)

theorem enterJamming_inv (hP : P.Legal) (h : Serving P s) (htxen : s.txen = true) (hovf : s.rxOvf = false)
    (hpend : s.sendPending = true) {w : List Byte} (hframe : wireFrame P s = some w) (hbuf : bufBytes s = some w) :
    Inv P (enterJamming s) :=
  Serving.inv_of_attempt (s := enterJamming s) (h.session h.bufWf) (.inl (.inr rfl)) (by simp [htxen, Driving])
    (h.jamTicks_ne_zero hP) hovf hpend hframe hbuf (by simp)

/-- A drawn delay that fits the timer leads to the wait, to listening, or to the end of the request (R231). -/
theorem backoffAfterDraw_inv {delay : Nat} (h : Serving P s) (htxen : s.txen = false) (hovf : s.rxOvf = false)
    (hpend : s.sendPending = true) {w : List Byte} (hframe : wireFrame P s = some w) (hbuf : bufBytes s = some w)
    (hdelay : delay < 2 ^ 32) : Inv P (backoffAfterDraw delay s) := by
  rw [backoffAfterDraw_eq]
  split_ifs with hexhausted hzero
  · exact h.completeSend_inv (errorCode .collisionRetriesExhausted) htxen
  all_goals have hretried := h.retried hpend (Nat.le_of_not_lt hexhausted)
  · exact (hretried.session h.bufWf).inv_of_sensing rfl htxen hovf
  · have htimer : BitVec.ofNat 32 delay ≠ 0 := by bv_omega
    exact (hretried.session h.bufWf).inv_of_attempt (.inr rfl) (by simp [htxen, Driving]) htimer hovf hpend
      hframe hbuf (by simp)

/-- The stored bytes are the wire frame of the attempt, and its length fits `BUFLEN` (R184). -/
theorem beginTransmit_inv {t : State} (hP : P.Legal) (ht : beginTransmit P s = .next t) (h : Serving P s)
    (hovf : s.rxOvf = false) (hpend : s.sendPending = true) : Inv P t := by
  obtain ⟨b, w, hframe, hroom, hpos, rfl⟩ := beginTransmit_eq_next.mp ht
  have hlen : (BitVec.ofNat 16 (w.length + 1)).toNat = (b :: w).length := by
    have := bufCap_lt_of_legal hP
    rw [BitVec.toNat_ofNat, Nat.mod_eq_of_lt (by omega), List.length_cons]
  have hstored : Memory.readBytes (Memory.writeBytes s.buf 0 (b :: w)) 0 (BitVec.ofNat 16 (w.length + 1)).toNat =
      some (b :: w) := by
    rw [hlen, Memory.readBytes_writeBytes]
  exact (h.session (Memory.writeBytes_wf h.bufWf 0 (b :: w))).inv_of_attempt (.inl (.inl rfl)) (by simp [Driving])
    (h.ifgTicks_ne_zero hP) hovf hpend hframe hstored (fun _ => hpos)

end Serving

/-! ### What a delivered operation and a `CFGWR` can be -/

/-- The decoder reads the payloads of `SEND` and `RXDELIVER` with the length their `len` says, and every other
operation is well-formed (30_encoding.md R97). -/
theorem decode_wf {bytes rest : List Byte} {i : Instr} (h : decode bytes = .record i rest) : i.wf = true := by
  cases bytes with
  | nil => cases h
  | cons c bs =>
    simp only [decode] at h
    split at h
    · cases h
    · next op _ =>
      unfold decodeOperands at h
      cases op with
      | send | rxdeliver =>
        obtain ⟨_, _, _, h⟩ := withByte_eq_record h
        obtain ⟨_, _, _, h⟩ := withHalf_eq_record h
        obtain ⟨_, _, _, hlen, h⟩ := withPayload_eq_record h
        cases h
        simp [Instr.wf, hlen]
      | reset | init | cancel | tick =>
        cases h
        rfl
      | rdreg | byte | write | senddone | drop =>
        obtain ⟨_, _, _, h⟩ := withByte_eq_record h
        cases h
        rfl
      | lineidle | random =>
        obtain ⟨_, _, _, h⟩ := withWord_eq_record h
        cases h
        rfl
      | cfgwr =>
        obtain ⟨_, _, _, h⟩ := withByte_eq_record h
        obtain ⟨_, _, _, h⟩ := withWord_eq_record h
        cases h
        rfl
      | txen =>
        obtain ⟨_, _, _, h⟩ := withByte_eq_record h
        split_ifs at h <;> (cases h; rfl)

namespace Machine

/-- `CFGWR` writes configuration registers at most (R150, 30_encoding.md R98). -/
theorem writeReg_exists (idx : Byte) (val : Word) (s : State) : ∃ c, writeReg idx val s = configured c s := by
  unfold writeReg
  split <;> exact ⟨⟨_, _, _, _, _, _, _, _, _⟩, rfl⟩

end Machine

/-! ### The events keep the invariants (43_mac.md R177, R178) -/

namespace Inv

variable {P : Params} {s t : State}

/-- A body byte is appended to the body, or the overflow recorded (R200). -/
theorem after_rxStore (hP : P.Legal) (h : Inv P s) (hrun : running s = true) (hp : s.phase = .receiving) {b : Byte}
    (hb : b ≠ delim) (ht : rxStore P b s = .next t) : Inv P t := by
  have hserve := h.serving hrun
  have htxen := h.txen_eq_false (by simp [hp, Driving])
  have htimer := hserve.ifgTicks_ne_zero hP
  obtain ⟨hlimit, body, hbody, hdelim⟩ := h.receiving hp
  rcases rxStore_eq_next.mp ht with ⟨hlt, _, rfl⟩ | ⟨_, rfl⟩
  · have hsmall := hserve.rxLimit_lt hP
    have hlen : (s.bufLen + 1).toNat = s.bufLen.toNat + 1 := by bv_omega
    have hbefore : Memory.readBytes (Memory.write s.buf s.bufLen.toNat b) 0 s.bufLen.toNat = some body :=
      (Memory.readBytes_congr _ _ fun j _ hj => Memory.read_write_other _ _ (by omega)).trans hbody
    have hbody' : Memory.readBytes (Memory.write s.buf s.bufLen.toNat b) 0 (s.bufLen + 1).toNat =
        some (body ++ [b]) := by
      rw [hlen]
      exact Memory.readBytes_succ hbefore (by rw [Nat.zero_add, Memory.read_write_same])
    exact (hserve.session (Memory.write_wf hserve.bufWf _ b)).inv_of_receiving hp htxen htimer
      (show (s.bufLen + 1).toNat ≤ rxLimit s by omega) hbody' (by simp [hdelim, hb.symm])
  · exact (hserve.session hserve.bufWf).inv_of_receiving hp htxen htimer hlimit hbody hdelim

/-- The end of a body, whatever it decodes to, leads back to listening (R201). -/
theorem after_rxComplete (h : Inv P s) (hrun : running s = true) (hp : s.phase = .receiving)
    (ht : rxComplete P s = .next t) : Inv P t := by
  have hserve := h.serving hrun
  have htxen := h.txen_eq_false (by simp [hp, Driving])
  rcases rxComplete_eq_next.mp ht with ⟨_, rfl⟩ | ⟨_, body, _, rfl⟩
  · exact Serving.enterIdle_inv (hserve.session hserve.bufWf) htxen
  · obtain ⟨o, hdeliver⟩ := deliver_of_running (decodeFrame P.checksum s.maxPayload body) hrun
    rw [hdeliver]
    exact (hserve.session hserve.bufWf).inv_of_sensing rfl htxen rfl

theorem after_rxByte (hP : P.Legal) (h : Inv P s) (hrun : running s = true) (hp : s.phase = .receiving) {b : Byte}
    (ht : rxByte P b s = .next t) : Inv P t := by
  unfold rxByte at ht
  split at ht
  · exact h.after_rxComplete hrun hp ht
  · next hb => exact h.after_rxStore hP hrun hp hb ht

/-- `EnterJamming` from `Transmitting` keeps the attempt (R190, R194). -/
theorem after_enterJamming (hP : P.Legal) (h : Inv P s) (hrun : running s = true) (hp : s.phase = .transmitting) :
    Inv P (enterJamming s) := by
  have hattempt : Driving s.phase := .inl hp
  obtain ⟨w, hframe, hbuf⟩ := h.attempt (.inl hattempt)
  exact (h.serving hrun).enterJamming_inv hP (h.driving.mpr hattempt) (h.rxOvf_eq_false (by simp [hp]))
    (h.pendingPhase (.inl hattempt)) hframe hbuf

/-- The echo comparison ends the send, goes on with the attempt, or jams (R188). -/
theorem after_echoByte (hP : P.Legal) (h : Inv P s) (hrun : running s = true) (hp : s.phase = .transmitting) {b : Byte}
    (ht : echoByte b s = .next t) : Inv P t := by
  have hserve := h.serving hrun
  obtain ⟨_, _, ⟨_, _, rfl⟩ | ⟨_, hmore, _, _, rfl⟩ | ⟨_, rfl⟩⟩ := echoByte_eq_next.mp ht
  · exact Serving.completeSend_inv okCode (hserve.session hserve.bufWf) rfl
  · have hattempt : Driving s.phase := .inl hp
    have hidx := h.transmitting hp
    obtain ⟨w, hframe, hbuf⟩ := h.attempt (.inl hattempt)
    exact (hserve.session hserve.bufWf).inv_of_attempt (.inl hattempt) h.driving (hserve.ifgTicks_ne_zero hP)
      (h.rxOvf_eq_false (by simp [hp])) (h.pendingPhase (.inl hattempt)) hframe hbuf
      (fun _ => show (s.idx + 1).toNat < s.bufLen.toNat by bv_omega)
  · exact h.after_enterJamming hP hrun hp

/-- `BYTE`, phase by phase (R177). -/
theorem after_byteArrives (hP : P.Legal) (h : Inv P s) {b : Byte} (ht : byteArrives P b s = .next t) : Inv P t := by
  unfold byteArrives at ht
  split_ifs at ht with hrun
  · cases ht
    exact h
  · replace hrun : running s = true := by simpa using hrun
    cases hp : s.phase with
    | idle => exact absurd hp (h.runningPhase hrun)
    | sensingCarrier =>
      rw [hp] at ht
      have hreceiving := (h.serving hrun).enterReceiving_inv hP (h.txen_eq_false (by simp [hp, Driving]))
      exact hreceiving.after_rxByte hP hrun rfl ht
    | transmitting =>
      rw [hp] at ht
      exact h.after_echoByte hP hrun hp ht
    | jamming =>
      rw [hp] at ht
      cases ht
      exact h.boundary
    | backingOff =>
      rw [hp] at ht
      cases ht
      exact h
    | receiving =>
      rw [hp] at ht
      exact h.after_rxByte hP hrun hp ht

/-- The sensing window runs out (R186); the answer changes no register. -/
theorem after_sensingExpiry (hP : P.Legal) (h : Inv P s) (hrun : running s = true) (hp : s.phase = .sensingCarrier)
    (ht : sensingExpiry P { s with timer := 0 } = .next t) : Inv P t := by
  have htxen := h.txen_eq_false (by simp [hp, Driving])
  have hovf := h.rxOvf_eq_false (by simp [hp])
  have hserve := h.serving hrun
  obtain ⟨q, u, hu, hcases⟩ := sensingExpiry_eq_next.mp ht
  obtain ⟨answers, input, asked, rfl⟩ : ∃ answers input asked,
      u = { s with timer := 0, lineIdleAns := answers, input := input, asked := asked } :=
    ⟨_, _, _, lineIdleAnswered_eq hu⟩
  rcases hcases with ⟨_, rfl⟩ | ⟨_, hpend, hbegin⟩ | ⟨_, _, rfl⟩
  · exact Serving.enterReceiving_inv hP (hserve.session hserve.bufWf) htxen
  · exact Serving.beginTransmit_inv hP hbegin (hserve.session hserve.bufWf) hovf hpend
  · exact (hserve.session hserve.bufWf).inv_of_sensing hp htxen hovf

/-- The jam ends: the line is released and a delay drawn from the scaled range (R196, R231). -/
theorem after_jammingExpiry (h : Inv P s) (hrun : running s = true) (hp : s.phase = .jamming)
    (ht : jammingExpiry { s with timer := 0 } = .next t) : Inv P t := by
  have hattempt : Driving s.phase := .inr hp
  have hserve := h.serving hrun
  obtain ⟨w, hframe, hbuf⟩ := h.attempt (.inl hattempt)
  obtain ⟨hlo, hhi, x, u, hdraw, rfl⟩ := enterBackoff_eq_next.mp ht
  have hx := askRandom_lt hdraw (Nat.succ_pos _)
  obtain ⟨answers, input, asked, rfl⟩ : ∃ answers input asked,
      u = { s with
        timer := 0, txen := false, out := s.out ++ [.txen false], randomAns := answers, input := input,
        asked := asked } :=
    ⟨_, _, _, randomAnswered_eq hdraw⟩
  exact Serving.backoffAfterDraw_inv (hserve.session hserve.bufWf) rfl (h.rxOvf_eq_false (by simp [hp]))
    (h.pendingPhase (.inl hattempt)) hframe hbuf (by omega)

/-- The expiry rules, phase by phase (R178). -/
theorem after_expiry (hP : P.Legal) (h : Inv P s) (hrun : running s = true)
    (ht : expiry P { s with timer := 0 } = .next t) : Inv P t := by
  have hserve := h.serving hrun
  rcases expiry_eq_next.mp ht with ⟨hp, ht⟩ | ⟨hp, rfl⟩ | ⟨hp, ht⟩ | ⟨hp, rfl⟩ | ⟨hp, rfl⟩
  · exact h.after_sensingExpiry hP hrun hp ht
  · show Inv P (enterJamming s)
    exact h.after_enterJamming hP hrun hp
  · exact h.after_jammingExpiry hrun hp ht
  · replace hp : s.phase = .backingOff := hp
    exact (hserve.session hserve.bufWf).inv_of_sensing rfl (h.txen_eq_false (by simp [hp, Driving]))
      (h.rxOvf_eq_false (by simp [hp]))
  · replace hp : s.phase = .receiving := hp
    exact Serving.enterIdle_inv (hserve.session hserve.bufWf) (h.txen_eq_false (by simp [hp, Driving]))

/-- `TICK` (R178): nothing is timed, the deadline is counted down, or it expires. -/
theorem after_tickElapses (hP : P.Legal) (h : Inv P s) (ht : tickElapses P s = .next t) : Inv P t := by
  rcases tickElapses_eq_next.mp ht with ⟨_, rfl⟩ | ⟨hone, hexpiry⟩ | ⟨hmore, rfl⟩
  · exact h
  · exact h.after_expiry hP (h.running_of_timer (by rw [hone]; decide)) hexpiry
  · have hrun := h.running_of_timer (by rintro hzero; simp [hzero] at hmore)
    have htimer : s.timer - 1 ≠ 0 := by bv_omega
    exact { h with
      notRunning := fun hno => absurd (hrun.symm.trans hno) (by decide)
      timed := fun _ => htimer }

/-! ### The host commands keep the invariants (42_timing_config.md, 43_mac.md R174, R175) -/

theorem of_reset (P : Params) : Inv P State.reset :=
  Resting.inv ⟨rfl, rfl, rfl, rfl, rfl, rfl, rfl, reset_memories_wf⟩ rfl (by decide)

theorem after_resetBlock (s : State) : Inv P (resetBlock s) := by
  rw [resetBlock_eq]
  exact (of_reset P).boundary

/-- An unlocked block is at rest (R52 items 1 to 3, R150, R152). -/
theorem resting_of_unlocked (h : Inv P s) (hlock : ¬(s.cfgValid || s.fault) = true) :
    Resting s ∧ s.cfgValid = false ∧ s.fault = false ∧ s.cfgErr = 0 := by
  simp only [Bool.or_eq_true, not_or, Bool.not_eq_true] at hlock
  obtain ⟨hvalid, hfault⟩ := hlock
  refine ⟨h.resting (by simp [running, hvalid]), hvalid, hfault, ?_⟩
  by_contra herr
  exact absurd (h.cfgErr.mp herr) (by simp [hfault])

theorem after_writeConfig (h : Inv P s) (idx : Byte) (val : Word) : Inv P (writeConfig idx val s) := by
  unfold writeConfig
  split_ifs with hlock
  · exact h
  · obtain ⟨hrest, hvalid, hfault, herr⟩ := h.resting_of_unlocked hlock
    obtain ⟨c, hc⟩ := writeReg_exists idx val s
    rw [hc]
    exact (hrest.configured c).inv hvalid (by simp [configured, herr, hfault])

/-- `INIT` (R152): refused, failed with the mask of the failed rules, or booted. -/
theorem after_initialise (h : Inv P s) : Inv P (initialise P s) := by
  unfold initialise
  split_ifs with hlock hfail
  · exact h.boundary
  all_goals obtain ⟨hrest, hvalid, hfault, herr⟩ := h.resting_of_unlocked hlock
  · have hrest' : Resting (takeError (.misconfiguredTiming (validateConfig P s)) s) := { hrest with }
    exact hrest'.inv hvalid (by simpa [takeError] using hfail)
  · have hserve := hrest.serving_of_valid (P := P) (by simpa using hfail) hfault herr
    exact (hserve.enterIdle_inv hrest.txen).boundary

/-- `SEND` (R174): only the return value changes, or the request is latched while the block listens or receives. -/
theorem after_requestSend (h : Inv P s) {dst : Byte} {len : Half} {payload : List Byte}
    (hlen : payload.length = len.toNat) (ht : requestSend P dst len payload s = .next t) : Inv P t := by
  rcases requestSend_next ht with ⟨_, rfl⟩ | ⟨_, _, _, rfl⟩ | ⟨hrun, hpend, hmax, _, rfl⟩
  · exact h.boundary
  · exact h.boundary
  · have hlatched := (h.serving hrun).latched (dst := dst) hlen hmax
    have hfree : ¬(Driving s.phase ∨ s.phase = .backingOff) := fun hp =>
      absurd (hpend.symm.trans (h.pendingPhase hp)) (by decide)
    cases hp : s.phase with
    | idle => exact absurd hp (h.runningPhase hrun)
    | sensingCarrier =>
      exact (hlatched.session hlatched.bufWf).inv_of_sensing rfl (h.txen_eq_false (by simp [hp, Driving]))
        (h.rxOvf_eq_false (by simp [hp]))
    | transmitting | jamming | backingOff => simp [hp, Driving] at hfree
    | receiving =>
      obtain ⟨hlimit, body, hbody, hdelim⟩ := h.receiving hp
      exact (hlatched.session hlatched.bufWf).inv_of_receiving rfl (h.txen_eq_false (by simp [hp, Driving]))
        (h.timed (.inr (.inr hp))) hlimit hbody hdelim

/-- `CANCEL` (R175): a request is withdrawn only while the block listens. -/
theorem after_cancelSend (h : Inv P s) : Inv P (cancelSend s) := by
  unfold cancelSend
  split_ifs with hwithdraw
  · obtain ⟨hpend, hp⟩ := hwithdraw
    have hrun : running s = true := by
      by_contra hno
      obtain ⟨_, _, _, hpend', _⟩ := h.notRunning (by simpa using hno)
      exact absurd (hpend.symm.trans hpend') (by decide)
    have hp : s.phase = .sensingCarrier := hp.resolve_left (h.runningPhase hrun)
    have hwithdrawn := (h.serving hrun).withdrawn
    exact (hwithdrawn.session hwithdrawn.bufWf).inv_of_sensing hp (h.txen_eq_false (by simp [hp, Driving]))
      (h.rxOvf_eq_false (by simp [hp]))
  · exact h.boundary

/-! ### Every operation and every step keep the invariants -/

/-- Operation by operation: the answers and the output actions change only the boundary. -/
theorem after_execFor (hP : P.Legal) (h : Inv P s) {i : Instr} (hwf : i.wf = true) (ht : execFor P i s = .next t) :
    Inv P t := by
  cases i with
  | send => exact h.after_requestSend (by simpa [Instr.wf] using hwf) ht
  | byte => exact h.after_byteArrives hP ht
  | tick => exact h.after_tickElapses hP ht
  | reset =>
    cases ht
    exact after_resetBlock s
  | cfgwr idx val =>
    cases ht
    exact h.after_writeConfig idx val
  | init =>
    cases ht
    exact h.after_initialise
  | cancel =>
    cases ht
    exact h.after_cancelSend
  | rdreg | lineidle | random | txen | write | senddone | rxdeliver | drop =>
    cases ht
    exact h.boundary

/-- Taking the record of the operation, and passing over reports after it, change `input` only. -/
theorem after_stepFor (hP : P.Legal) (h : Inv P s) (ht : stepFor P s = .next t) : Inv P t := by
  rcases stepFor_eq_next ht with ⟨i, rest, u, left, hrecord, hexec, rfl⟩ | ⟨_, rfl⟩
  · have hwf : i.wf = true := decode_wf hrecord
    exact Inv.boundary (Inv.after_execFor hP h.boundary hwf hexec)
  · exact h

end Inv

/-- Settles O46: every operation keeps the invariants, and a step is one well-formed operation. -/
theorem theInvariantsHoldForAllParameters : Obligations.TheInvariantsHoldForAllParameters :=
  fun _ _ _ hP h => ⟨fun _ hwf ht => h.after_execFor hP hwf ht, fun ht => h.after_stepFor hP ht⟩

/-- Settles O44: the defaults are legal parameters (00_scope.md R6). -/
theorem everyStepKeepsTheInvariants : Obligations.EveryStepKeepsTheInvariants := fun s t h ht =>
  h.after_stepFor ⟨.inl rfl, by decide⟩ (step_eq_stepFor s ▸ ht)

/-- Settles O43: the reset state is at rest, and what is delivered is no part of the invariants. -/
theorem theInvariantsHoldAfterReset : Obligations.TheInvariantsHoldAfterReset := fun _ =>
  (Inv.of_reset defaultParams).boundary

/-! ### Bytes that no rule reads (10_state.md R45, R46)

Two states that differ in such bytes alone are followed through every procedure. Most updates neither read nor write the
two memories (`Blind`); the others read valid parts, which agree, or write the bytes that make a valid part longer. -/

namespace Machine

/-- The bytes that a write stores do not depend on what was there before. -/
theorem Memory.read_writeBytes_congr (bs : List Byte) (m m' : Memory) {a : Nat} (ha : a < bs.length) :
    Memory.read (Memory.writeBytes m 0 bs) a = Memory.read (Memory.writeBytes m' 0 bs) a := by
  have hread (n : Memory) : Memory.read (Memory.writeBytes n 0 bs) a = bs[a]? := by
    simpa using Memory.read_of_readBytes (Memory.readBytes_writeBytes bs n 0) a ha
  rw [hread m, hread m']

end Machine

/-- The same registers with other contents of `BUF` and `TXPAY`. -/
def withMemories (b p : Memory) (s : State) : State := { s with buf := b, txPay := p }

namespace SameButStale

variable {s s' : State}

theorem exists_withMemories (h : SameButStale s s') :
    ∃ b p, s' = withMemories b p s ∧ (∀ a < s.bufLen.toNat, Memory.read b a = Memory.read s.buf a) ∧
      (∀ a < s.txLen.toNat, Memory.read p a = Memory.read s.txPay a) :=
  ⟨s'.buf, s'.txPay, h⟩

theorem refl (s : State) : SameButStale s s := ⟨rfl, fun _ _ => rfl, fun _ _ => rfl⟩

/-- What is computed from the registers alone is the same. -/
theorem view_eq {α : Type} (view : State → α) (hview : ∀ b p s, view (withMemories b p s) = view s)
    (h : SameButStale s s') : view s' = view s := by
  obtain ⟨b, p, rfl, _, _⟩ := h.exists_withMemories
  exact hview b p s

theorem running_eq (h : SameButStale s s') : running s' = running s := h.view_eq running fun _ _ _ => rfl
theorem phase_eq (h : SameButStale s s') : s'.phase = s.phase := h.view_eq State.phase fun _ _ _ => rfl
theorem sendPending_eq (h : SameButStale s s') : s'.sendPending = s.sendPending :=
  h.view_eq State.sendPending fun _ _ _ => rfl
theorem maxPayload_eq (h : SameButStale s s') : s'.maxPayload = s.maxPayload :=
  h.view_eq State.maxPayload fun _ _ _ => rfl
theorem rxOvf_eq (h : SameButStale s s') : s'.rxOvf = s.rxOvf := h.view_eq State.rxOvf fun _ _ _ => rfl
theorem timer_eq (h : SameButStale s s') : s'.timer = s.timer := h.view_eq State.timer fun _ _ _ => rfl
theorem ifgTicks_eq (h : SameButStale s s') : s'.ifgTicks = s.ifgTicks := h.view_eq State.ifgTicks fun _ _ _ => rfl

/-! The valid parts read alike. -/

theorem bufRead_eq (h : SameButStale s s') (i : Nat) : bufRead s' i = bufRead s i := by
  obtain ⟨b, p, rfl, hbuf, _⟩ := h.exists_withMemories
  by_cases hi : i < s.bufLen.toNat
  · simp [bufRead, withMemories, hi, hbuf i hi]
  · simp [bufRead, withMemories, hi]

theorem bufBytes_eq (h : SameButStale s s') : bufBytes s' = bufBytes s := by
  obtain ⟨b, p, rfl, hbuf, _⟩ := h.exists_withMemories
  exact Memory.readBytes_congr _ _ fun j _ hj => hbuf j (by simpa [withMemories] using hj)

theorem txPayRead_eq (h : SameButStale s s') : txPayRead s' = txPayRead s := by
  obtain ⟨b, p, rfl, _, hpay⟩ := h.exists_withMemories
  exact Memory.readBytes_congr _ _ fun j _ hj => hpay j (by simpa [withMemories] using hj)

theorem wireFrame_eq (P : Params) (h : SameButStale s s') : wireFrame P s' = wireFrame P s := by
  have hpay := h.txPayRead_eq
  obtain ⟨b, p, rfl, _, _⟩ := h.exists_withMemories
  simp only [wireFrame, hpay]
  rfl

/-! A question is answered alike: its answer stands in fields of the boundary. -/

theorem lineIdleAnswered {q : Word} {u : State} (h : SameButStale s s') (hu : LineIdleAnswered s q u) :
    ∃ u', LineIdleAnswered s' q u' ∧ SameButStale u u' := by
  obtain ⟨b, p, rfl, hbuf, hpay⟩ := h.exists_withMemories
  rcases hu with ⟨qs, hqs, rfl⟩ | ⟨hnone, rest, hrecord, rfl⟩ | ⟨hnone, hrecord, hq, rfl⟩
  · exact ⟨withMemories b p _, .inl ⟨qs, hqs, rfl⟩, rfl, hbuf, hpay⟩
  · exact ⟨withMemories b p _, .inr (.inl ⟨hnone, rest, hrecord, rfl⟩), rfl, hbuf, hpay⟩
  · exact ⟨withMemories b p _, .inr (.inr ⟨hnone, hrecord, hq, rfl⟩), rfl, hbuf, hpay⟩

theorem randomAnswered {range x : Nat} {u : State} (h : SameButStale s s') (hu : RandomAnswered s range x u) :
    ∃ u', RandomAnswered s' range x u' ∧ SameButStale u u' := by
  obtain ⟨b, p, rfl, hbuf, hpay⟩ := h.exists_withMemories
  rcases hu with ⟨v, vs, hvs, hx, hlt, rfl⟩ | ⟨hnone, v, rest, hrecord, hx, hlt, rfl⟩ | ⟨hnone, hrecord, hx, rfl⟩
  · exact ⟨withMemories b p _, .inl ⟨v, vs, hvs, hx, hlt, rfl⟩, rfl, hbuf, hpay⟩
  · exact ⟨withMemories b p _, .inr (.inl ⟨hnone, v, rest, hrecord, hx, hlt, rfl⟩), rfl, hbuf, hpay⟩
  · exact ⟨withMemories b p _, .inr (.inr ⟨hnone, hrecord, hx, rfl⟩), rfl, hbuf, hpay⟩

end SameButStale

/-! #### Updates that do not see the memories -/

/-- The update neither reads nor writes the two memories, and makes neither valid part longer. An update of other
registers meets the three conditions by definition. -/
structure Blind (f : State → State) : Prop where
  commutes (b p : Memory) (s : State) : f (withMemories b p s) = withMemories b p (f s) := by intros; rfl
  bufLen (s : State) : (f s).bufLen.toNat ≤ s.bufLen.toNat := by intros; exact le_rfl
  txLen (s : State) : (f s).txLen.toNat ≤ s.txLen.toNat := by intros; exact le_rfl

namespace Blind

variable {f g : State → State}

theorem sameButStale {s s' : State} (hf : Blind f) (h : SameButStale s s') : SameButStale (f s) (f s') := by
  have hself : f s = withMemories s.buf s.txPay (f s) := hf.commutes s.buf s.txPay s
  have hbuf : (f s).buf = s.buf := (congrArg State.buf hself).trans rfl
  have hpay : (f s).txPay = s.txPay := (congrArg State.txPay hself).trans rfl
  obtain ⟨b, p, rfl, hb, hp⟩ := h.exists_withMemories
  rw [hf.commutes]
  refine ⟨rfl, fun a ha => ?_, fun a ha => ?_⟩
  · rw [hbuf]
    exact hb a (ha.trans_le (hf.bufLen s))
  · rw [hpay]
    exact hp a (ha.trans_le (hf.txLen s))

theorem comp (hg : Blind g) (hf : Blind f) : Blind fun s => g (f s) where
  commutes b p s := by rw [hf.commutes, hg.commutes]
  bufLen s := (hg.bufLen (f s)).trans (hf.bufLen s)
  txLen s := (hg.txLen (f s)).trans (hf.txLen s)

/-- A choice by a condition on the registers. -/
theorem ite {c : State → Prop} [DecidablePred c] (hc : ∀ b p s, c (withMemories b p s) ↔ c s) (hf : Blind f)
    (hg : Blind g) : Blind fun s => if c s then f s else g s where
  commutes b p s := by
    simp only [hc]
    split_ifs
    · exact hf.commutes b p s
    · exact hg.commutes b p s
  bufLen s := by
    split_ifs
    · exact hf.bufLen s
    · exact hg.bufLen s
  txLen s := by
    split_ifs
    · exact hf.txLen s
    · exact hg.txLen s

end Blind

theorem blind_emit (o : Output) : Blind (emit o) := {}
theorem blind_returns (v : Word) : Blind (returns v) := {}
theorem blind_armTimer (d : Word) : Blind (armTimer d) := {}
theorem blind_enterSensing : Blind enterSensing := {}
theorem blind_enterReceiving : Blind enterReceiving := { bufLen := fun _ => Nat.zero_le _ }
theorem blind_enterJamming : Blind enterJamming := {}
theorem blind_clearSession : Blind clearSession := { bufLen := fun _ => Nat.zero_le _ }

theorem blind_enterIdle : Blind enterIdle :=
  .ite (fun _ _ _ => Iff.rfl) (blind_enterSensing.comp blind_clearSession) blind_clearSession

theorem blind_completeSend (status : Byte) : Blind (completeSend status) :=
  have hclear : Blind fun s => { s with sendPending := false, retry := 0 } := {}
  (blind_enterIdle.comp (blind_emit (.senddone status))).comp hclear

theorem blind_takeError (e : Error) : Blind (takeError e) := by
  cases e with
  | payloadTooLarge | refused => exact blind_returns _
  | checksumMismatch | malformedFrame | notAddressed => exact blind_enterIdle.comp (blind_emit _)
  | collisionRetriesExhausted => exact blind_completeSend _
  | misconfiguredTiming mask =>
    have hfault : Blind fun s => { s with cfgErr := mask, fault := true } := {}
    exact (blind_returns _).comp hfault

theorem blind_deliver (r : DecodeResult) : Blind fun s => deliver s r := by
  cases r with
  | frame f =>
    exact .ite (fun _ _ _ => Iff.rfl) (blind_enterIdle.comp (blind_emit _)) (blind_takeError .notAddressed)
  | checksumMismatch => exact blind_takeError .checksumMismatch
  | malformedFrame => exact blind_takeError .malformedFrame

theorem blind_backoffAfterDraw (delay : Nat) : Blind (backoffAfterDraw delay) := by
  have hretry : Blind fun s => { s with retry := s.retry + 1 } := {}
  have hphase : Blind fun s => { s with phase := .backingOff } := {}
  have hwait := Blind.ite (c := fun _ => delay = 0) (fun _ _ _ => Iff.rfl) (blind_enterSensing.comp hphase)
    ((blind_armTimer (BitVec.ofNat 32 delay)).comp hphase)
  have hlimit := Blind.ite (c := fun s => s.maxRetries.toNat < s.retry.toNat) (fun _ _ _ => Iff.rfl)
    (blind_takeError .collisionRetriesExhausted) hwait
  exact hlimit.comp hretry

theorem blind_writeReg (idx : Byte) (val : Word) : Blind (writeReg idx val) := by
  refine ⟨fun b p s => ?_, fun s => ?_, fun s => ?_⟩
  · unfold writeReg
    split <;> rfl
  all_goals
    obtain ⟨c, hc⟩ := writeReg_exists idx val s
    rw [hc]
    rfl

theorem blind_writeConfig (idx : Byte) (val : Word) : Blind (writeConfig idx val) :=
  .ite (fun _ _ _ => Iff.rfl) {} (blind_writeReg idx val)

theorem blind_readConfig (idx : Byte) : Blind (readConfig idx) := {}

theorem blind_initialise (P : Params) : Blind (initialise P) := by
  have hlock : Blind fun s => { s with cfgValid := true } := {}
  have hfail : Blind fun s => takeError (.misconfiguredTiming (validateConfig P s)) s := {}
  exact .ite (fun _ _ _ => Iff.rfl) (blind_takeError .refused)
    (.ite (fun _ _ _ => Iff.rfl) hfail ((blind_returns _).comp (blind_enterIdle.comp hlock)))

theorem blind_cancelSend : Blind cancelSend := by
  have hwithdraw : Blind fun s => returns 1 { s with sendPending := false, retry := 0 } := {}
  exact .ite (fun _ _ _ => Iff.rfl) hwithdraw (blind_returns 0)

/-! #### Outcomes -/

/-- Where the first outcome is a next state, so is the second, and the two differ in stale bytes at most. -/
def Alike (r r' : Result) : Prop := ∀ t, r = .next t → ∃ t', r' = .next t' ∧ SameButStale t t'

theorem alike_next {t t' : State} (h : SameButStale t t') : Alike (.next t) (.next t') := by
  rintro _ ⟨⟩
  exact ⟨t', rfl, h⟩

theorem alike_fault (e : Fault) (r : Result) : Alike (.fault e) r := fun _ ht => by cases ht

namespace SameButStale

variable {P : Params} {s s' : State}

/-- The valid part grows by the byte that is written (43_mac.md R200). -/
theorem alike_rxStore (b : Byte) (h : SameButStale s s') : Alike (rxStore P b s) (rxStore P b s') := by
  intro t ht
  obtain ⟨m, p, rfl, hbuf, hpay⟩ := h.exists_withMemories
  rcases rxStore_eq_next.mp ht with ⟨hlt, hcap, rfl⟩ | ⟨hge, rfl⟩
  · refine ⟨_, rxStore_eq_next.mpr (.inl ⟨hlt, hcap, rfl⟩), rfl, fun a ha => ?_, hpay⟩
    simp only [withMemories, Memory.read_write] at ha ⊢
    split_ifs with heq
    · rfl
    · exact hbuf a (by bv_omega)
  · exact ⟨_, rxStore_eq_next.mpr (.inr ⟨hge, rfl⟩), rfl, hbuf, hpay⟩

/-- The body that is decoded is the valid part (R201). -/
theorem alike_rxComplete (h : SameButStale s s') : Alike (rxComplete P s) (rxComplete P s') := by
  unfold rxComplete
  rw [h.bufBytes_eq, h.maxPayload_eq, h.rxOvf_eq]
  split_ifs
  · exact alike_next ((blind_takeError _).sameButStale h)
  · cases bufBytes s with
    | none => exact alike_fault _ _
    | some body => exact alike_next ((blind_deliver _).sameButStale h)

theorem alike_rxByte (b : Byte) (h : SameButStale s s') : Alike (rxByte P b s) (rxByte P b s') := by
  unfold rxByte
  split_ifs
  · exact h.alike_rxComplete
  · exact h.alike_rxStore b

/-- The echo is compared with, and followed by, bytes of the valid part (R188). -/
theorem alike_echoByte (b : Byte) (h : SameButStale s s') : Alike (echoByte b s) (echoByte b s') := by
  intro t ht
  have hread := h.bufRead_eq
  obtain ⟨e, he, hcases⟩ := echoByte_eq_next.mp ht
  obtain ⟨m, p, rfl, hbuf, hpay⟩ := h.exists_withMemories
  have he' := (hread s.idx.toNat).trans he
  rcases hcases with ⟨hb, hlast, rfl⟩ | ⟨hb, hmore, w, hw, rfl⟩ | ⟨hb, rfl⟩
  · have hrelease : Blind fun s => emit (.txen false) { s with idx := s.idx + 1, txen := false } := {}
    exact ⟨_, echoByte_eq_next.mpr ⟨e, he', .inl ⟨hb, hlast, rfl⟩⟩,
      ((blind_completeSend okCode).comp hrelease).sameButStale h⟩
  · exact ⟨_, echoByte_eq_next.mpr ⟨e, he', .inr (.inl ⟨hb, hmore, w, (hread _).trans hw, rfl⟩)⟩, rfl, hbuf, hpay⟩
  · exact ⟨_, echoByte_eq_next.mpr ⟨e, he', .inr (.inr ⟨hb, rfl⟩)⟩, blind_enterJamming.sameButStale h⟩

/-- `BYTE`, phase by phase (R177). -/
theorem alike_byteArrives (b : Byte) (h : SameButStale s s') : Alike (byteArrives P b s) (byteArrives P b s') := by
  unfold byteArrives
  rw [h.running_eq, h.phase_eq]
  split_ifs
  · exact alike_next h
  · cases s.phase with
    | idle => exact alike_fault _ _
    | sensingCarrier => exact (blind_enterReceiving.sameButStale h).alike_rxByte b
    | transmitting => exact h.alike_echoByte b
    | jamming => exact alike_next ((blind_emit _).sameButStale h)
    | backingOff => exact alike_next h
    | receiving => exact h.alike_rxByte b

/-- The new valid part of `BUF` is the wire frame just written (R184). -/
theorem alike_beginTransmit (h : SameButStale s s') : Alike (beginTransmit P s) (beginTransmit P s') := by
  intro t ht
  obtain ⟨b, w, hframe, hroom, hpos, rfl⟩ := beginTransmit_eq_next.mp ht
  have hframe' := (h.wireFrame_eq P).trans hframe
  obtain ⟨m, p, rfl, hbuf, hpay⟩ := h.exists_withMemories
  refine ⟨_, beginTransmit_eq_next.mpr ⟨b, w, hframe', hroom, hpos, rfl⟩, rfl, fun a ha => ?_, hpay⟩
  have hlt : a < (b :: w).length := ha.trans_le (Nat.mod_le _ _)
  exact Memory.read_writeBytes_congr (b :: w) _ _ hlt

/-- The sensing expiry, answer by answer (R186). -/
theorem alike_sensingExpiry (h : SameButStale s s') : Alike (sensingExpiry P s) (sensingExpiry P s') := by
  intro t ht
  obtain ⟨q, u, hu, hcases⟩ := sensingExpiry_eq_next.mp ht
  obtain ⟨u', hu', hsame⟩ := h.lineIdleAnswered hu
  have hends (t' : State) := sensingExpiry_eq_next (P := P) (s := s') (t := t')
  rw [← hsame.ifgTicks_eq, ← hsame.sendPending_eq] at hcases
  rcases hcases with ⟨hq, rfl⟩ | ⟨hq, hpend, hbegin⟩ | ⟨hq, hpend, rfl⟩
  · exact ⟨_, (hends _).mpr ⟨q, u', hu', .inl ⟨hq, rfl⟩⟩, blind_enterReceiving.sameButStale hsame⟩
  · obtain ⟨t', ht', hsame'⟩ := hsame.alike_beginTransmit t hbegin
    exact ⟨t', (hends t').mpr ⟨q, u', hu', .inr (.inl ⟨hq, hpend, ht'⟩)⟩, hsame'⟩
  · exact ⟨u', (hends u').mpr ⟨q, u', hu', .inr (.inr ⟨hq, hpend, rfl⟩)⟩, hsame⟩

/-- The range that is asked is made of registers (44_backoff.md R231, R232). -/
theorem alike_enterBackoff (h : SameButStale s s') : Alike (enterBackoff s) (enterBackoff s') := by
  intro t ht
  obtain ⟨hlo, hhi, x, u, hu, rfl⟩ := enterBackoff_eq_next.mp ht
  obtain ⟨u', hu', hsame⟩ := h.randomAnswered hu
  have hsame' := (blind_backoffAfterDraw (backoffLo s + x)).sameButStale hsame
  obtain ⟨b, p, rfl, _, _⟩ := h.exists_withMemories
  exact ⟨_, enterBackoff_eq_next.mpr ⟨hlo, hhi, x, u', hu', rfl⟩, hsame'⟩

/-- The expiry rules, phase by phase (R178). -/
theorem alike_expiry (h : SameButStale s s') : Alike (expiry P s) (expiry P s') := by
  unfold expiry
  rw [h.phase_eq]
  cases s.phase with
  | idle => exact alike_fault _ _
  | sensingCarrier => exact h.alike_sensingExpiry
  | transmitting => exact alike_next (blind_enterJamming.sameButStale h)
  | jamming =>
    have hrelease : Blind fun s => emit (.txen false) { s with txen := false } := {}
    exact (hrelease.sameButStale h).alike_enterBackoff
  | backingOff => exact alike_next (blind_enterSensing.sameButStale h)
  | receiving => exact alike_next ((blind_takeError _).sameButStale h)

theorem alike_tickElapses (h : SameButStale s s') : Alike (tickElapses P s) (tickElapses P s') := by
  have hcount : Blind fun s => { s with timer := s.timer - 1 } := {}
  have hcounted := hcount.sameButStale h
  unfold tickElapses
  rw [h.timer_eq] at hcounted ⊢
  split_ifs
  · exact alike_next h
  · exact hcounted.alike_expiry
  · exact alike_next hcounted

/-- The new valid part of `TXPAY` is the payload just written (R174). -/
theorem alike_requestSend {dst : Byte} {len : Half} {payload : List Byte} (hlen : payload.length = len.toNat)
    (h : SameButStale s s') : Alike (requestSend P dst len payload s) (requestSend P dst len payload s') := by
  have hlatched : SameButStale
      { s with
        txDst := dst, txLen := len, sendPending := true, retry := 0, txPay := Memory.writeBytes s.txPay 0 payload }
      { s' with
        txDst := dst, txLen := len, sendPending := true, retry := 0, txPay := Memory.writeBytes s'.txPay 0 payload } := by
    obtain ⟨b, p, rfl, hbuf, _⟩ := h.exists_withMemories
    exact ⟨rfl, hbuf, fun a ha => Memory.read_writeBytes_congr payload _ _ (hlen ▸ ha)⟩
  have hanswer : Blind fun s => returns (okCode.setWidth 32)
      (if s.phase = .sensingCarrier ∧ s.timer = 0#32 then armTimer s.ifgTicks s else s) := by
    have harm : Blind fun s => armTimer s.ifgTicks s := {}
    exact (blind_returns _).comp (.ite (fun _ _ _ => Iff.rfl) harm {})
  unfold requestSend
  rw [h.maxPayload_eq] at hlatched ⊢
  rw [h.running_eq, h.sendPending_eq]
  split_ifs
  · exact alike_next ((blind_takeError _).sameButStale h)
  · exact alike_next ((blind_takeError _).sameButStale h)
  · exact alike_next ((blind_takeError _).sameButStale h)
  · intro t ht
    simp only [andThen_eq_next, txPayWrite_eq_next] at ht ⊢
    obtain ⟨u, ⟨hroom, rfl⟩, ht⟩ := ht
    cases ht
    exact ⟨_, ⟨_, ⟨hroom, rfl⟩, rfl⟩, hanswer.sameButStale hlatched⟩

/-- `RESET` leaves nothing of either memory (70_reset_and_hazards.md R290). -/
theorem resetBlock_eq (h : SameButStale s s') : resetBlock s' = resetBlock s := by
  obtain ⟨b, p, rfl, _, _⟩ := h.exists_withMemories
  rw [Machine.resetBlock_eq, Machine.resetBlock_eq]
  rfl

/-- Operation by operation; most are one update that does not see the memories. -/
theorem alike_execFor {i : Instr} (hwf : i.wf = true) (h : SameButStale s s') :
    Alike (execFor P i s) (execFor P i s') := by
  cases i with
  | reset =>
    have hreset : SameButStale (resetBlock s) (resetBlock s') := h.resetBlock_eq ▸ SameButStale.refl _
    exact alike_next hreset
  | send => exact h.alike_requestSend (by simpa [Instr.wf] using hwf)
  | byte b => exact h.alike_byteArrives b
  | tick => exact h.alike_tickElapses
  | cfgwr idx val => exact alike_next ((blind_writeConfig idx val).sameButStale h)
  | rdreg idx => exact alike_next ((blind_readConfig idx).sameButStale h)
  | init => exact alike_next ((blind_initialise P).sameButStale h)
  | cancel => exact alike_next (blind_cancelSend.sameButStale h)
  | lineidle q =>
    have hkeep : Blind fun s => { s with lineIdleAns := s.lineIdleAns ++ [q] } := {}
    exact alike_next (hkeep.sameButStale h)
  | random v =>
    have hkeep : Blind fun s => { s with randomAns := s.randomAns ++ [v] } := {}
    exact alike_next (hkeep.sameButStale h)
  | txen | write | senddone | rxdeliver | drop => exact alike_next ((blind_emit _).sameButStale h)

end SameButStale

/-- Settles O53, for the machine at the defaults. -/
theorem unspecifiedBytesAreNeverRead : Obligations.UnspecifiedBytesAreNeverRead := by
  intro i s s' t hwf h ht
  rw [exec_eq_execFor] at ht ⊢
  exact h.alike_execFor hwf t ht

end Sys2Proof

/-!
SUPPORT. The family 20_memory.md: an operation is run from the record that stands first in `input` (R69), no access is
undefined from a state that satisfies the invariants (R62), and the wire frame of a pending request is the same at every
attempt (R72). For the last, the registers a wire frame is made of (`frameRegisters`) are followed through every
procedure; only `SEND`, `CFGWR` and `RESET` write one.
-/

namespace Sys2Proof

open Machine

/-! ### The delivered operation (20_memory.md R69, 30_encoding.md R97) -/

namespace Machine

/-- Where other bytes stand first in `input`, none is passed over (log 18). -/
theorem skipBytes_of_not_append {bytes : List Byte} {t : State} (h : ∀ rest, t.input ≠ bytes ++ rest) :
    skipBytes bytes t = t := by
  unfold skipBytes
  split
  · next rest hrest => exact absurd (List.isPrefixOf?_eq_some_iff_append_eq.mp hrest).symm (h rest)
  · rfl

theorem skipOutputs_of_toBlock {i : Instr} (hdir : i.dir = .toBlock) (s t : State) :
    skipOutputs i s t = skipBytes (outputRecords (emitted s t)) t := if_pos hdir

theorem skipOutputs_of_not_toBlock {i : Instr} (hdir : i.dir ≠ .toBlock) (s t : State) : skipOutputs i s t = t :=
  if_neg hdir

theorem step_of_record {s : State} {i : Instr} {rest : List Byte} (h : decode s.input = .record i rest) :
    step s = andThen (exec i { s with input := rest })
      fun t => .next (skipOutputs i { s with input := rest } t) := by
  rw [step_eq_stepFor, stepFor_of_record defaultParams h, exec_eq_execFor]

theorem step_of_empty {s : State} (h : s.input = []) : step s = .next s := by
  rw [step_eq_stepFor, stepFor_of_empty defaultParams h]

end Machine

/-- Settles O5: by what `input` decodes to, and by whether the records of the emitted outputs stand first there. -/
theorem stepRunsTheDeliveredOperation : Obligations.StepRunsTheDeliveredOperation := by
  refine ⟨fun s i rest => step_of_record, fun i s t rest hdir hreports => ?_, fun i s t hkept => ?_,
    fun s => step_of_empty⟩
  · rw [skipOutputs_of_toBlock hdir, skipBytes_of_append hreports]
  · by_cases hdir : i.dir = .toBlock
    · have hother := hkept.resolve_left (not_not_intro hdir)
      rw [skipOutputs_of_toBlock hdir, skipBytes_of_not_append hother]
    · exact skipOutputs_of_not_toBlock hdir s t

/-! ### No undefined access (20_memory.md R62) -/

/-- The defaults of the spec are a legal deployment (00_scope.md R6). -/
theorem defaultParams_legal : defaultParams.Legal := ⟨.inl rfl, by decide⟩

/-- Settles O45: `exec` is the machine of a legal deployment, in which no operation faults. -/
theorem noOperationFaultsFromAnInvariantState : Obligations.NoOperationFaultsFromAnInvariantState := by
  intro s i h hwf
  rw [exec_eq_execFor]
  exact noOperationFaultsForAnyParameters defaultParams s i defaultParams_legal h hwf

/-! ### The registers of a wire frame (20_memory.md R72, 40_frame_codec.md R116) -/

/-- What `Encode` is given at every attempt (10_state.md R46): the latched request `TXDST`, `TXLEN` and `TXPAY`, and the
configuration registers `LOCAL_ADDR` and `MAX_PAYLOAD`. -/
def frameRegisters (s : State) : Byte × Half × Memory × Byte × Half :=
  (s.txDst, s.txLen, s.txPay, s.localAddr, s.maxPayload)

theorem frameRegisters_eq_iff {s t : State} :
    frameRegisters t = frameRegisters s ↔
      t.txDst = s.txDst ∧ t.txLen = s.txLen ∧ t.txPay = s.txPay ∧ t.localAddr = s.localAddr ∧
        t.maxPayload = s.maxPayload := by
  simp only [frameRegisters, Prod.mk.injEq]

theorem wireFrame_of_frameRegisters_eq (P : Params) {s t : State} (h : frameRegisters t = frameRegisters s) :
    wireFrame P t = wireFrame P s := by
  obtain ⟨hdst, hlen, hpay, haddr, hmax⟩ := frameRegisters_eq_iff.mp h
  exact wireFrame_of_eq P hpay hlen hmax hdst haddr

namespace Machine

/-! #### The common ends of a step leave them as they are -/

@[simp] theorem frameRegisters_enterIdle (s : State) : frameRegisters (enterIdle s) = frameRegisters s := by
  simp [frameRegisters]

@[simp] theorem frameRegisters_completeSend (status : Byte) (s : State) :
    frameRegisters (completeSend status s) = frameRegisters s := by
  simp [frameRegisters]

@[simp] theorem frameRegisters_takeError (e : Error) (s : State) :
    frameRegisters (takeError e s) = frameRegisters s := by
  cases e with
  | payloadTooLarge | refused | misconfiguredTiming => rfl
  | checksumMismatch | malformedFrame | notAddressed => exact frameRegisters_enterIdle _
  | collisionRetriesExhausted => exact frameRegisters_completeSend _ s

@[simp] theorem frameRegisters_deliver (s : State) (r : DecodeResult) :
    frameRegisters (deliver s r) = frameRegisters s := by
  cases r with
  | frame f =>
    simp only [deliver]
    split_ifs
    · exact frameRegisters_enterIdle _
    · exact frameRegisters_takeError _ s
  | checksumMismatch | malformedFrame => exact frameRegisters_takeError _ s

@[simp] theorem frameRegisters_backoffAfterDraw (delay : Nat) (s : State) :
    frameRegisters (backoffAfterDraw delay s) = frameRegisters s := by
  rw [backoffAfterDraw_eq]
  split_ifs
  · exact frameRegisters_takeError _ _
  · rfl
  · rfl

theorem frameRegisters_cancelSend (s : State) : frameRegisters (cancelSend s) = frameRegisters s := by
  unfold cancelSend
  split_ifs <;> rfl

/-! #### No event writes one (43_mac.md R177, R178) -/

section

variable {P : Params} {s t : State}

theorem frameRegisters_of_rxByte {b : Byte} (ht : rxByte P b s = .next t) : frameRegisters t = frameRegisters s := by
  unfold rxByte at ht
  split_ifs at ht
  · rcases rxComplete_eq_next.mp ht with ⟨_, rfl⟩ | ⟨_, body, _, rfl⟩
    · exact frameRegisters_takeError _ s
    · exact frameRegisters_deliver s _
  · rcases rxStore_eq_next.mp ht with ⟨_, _, rfl⟩ | ⟨_, rfl⟩ <;> rfl

theorem frameRegisters_of_echoByte {b : Byte} (ht : echoByte b s = .next t) :
    frameRegisters t = frameRegisters s := by
  obtain ⟨_, _, ⟨_, _, rfl⟩ | ⟨_, _, _, _, rfl⟩ | ⟨_, rfl⟩⟩ := echoByte_eq_next.mp ht
  · exact frameRegisters_completeSend _ _
  · rfl
  · rfl

theorem frameRegisters_of_byteArrives {b : Byte} (ht : byteArrives P b s = .next t) :
    frameRegisters t = frameRegisters s := by
  unfold byteArrives at ht
  split_ifs at ht
  · cases ht
    rfl
  · cases hp : s.phase <;> rw [hp] at ht
    case idle => cases ht
    case sensingCarrier => exact (frameRegisters_of_rxByte ht).trans rfl
    case transmitting => exact frameRegisters_of_echoByte ht
    case jamming | backingOff =>
      cases ht
      rfl
    case receiving => exact frameRegisters_of_rxByte ht

/-- The frame is encoded anew at every attempt, from registers that the attempt only reads (R184, R186). -/
theorem frameRegisters_of_sensingExpiry (ht : sensingExpiry P s = .next t) : frameRegisters t = frameRegisters s := by
  obtain ⟨_, u, hu, hends⟩ := sensingExpiry_eq_next.mp ht
  have hasked : frameRegisters u = frameRegisters s :=
    (congrArg frameRegisters (lineIdleAnswered_eq hu)).trans rfl
  rcases hends with ⟨_, rfl⟩ | ⟨_, _, hbegin⟩ | ⟨_, _, rfl⟩
  · exact hasked
  · obtain ⟨_, _, _, _, _, rfl⟩ := beginTransmit_eq_next.mp hbegin
    exact hasked
  · exact hasked

theorem frameRegisters_of_enterBackoff (ht : enterBackoff s = .next t) : frameRegisters t = frameRegisters s := by
  obtain ⟨_, _, x, u, hu, rfl⟩ := enterBackoff_eq_next.mp ht
  calc frameRegisters (backoffAfterDraw (backoffLo s + x) u)
      = frameRegisters u := frameRegisters_backoffAfterDraw _ u
    _ = frameRegisters s := (congrArg frameRegisters (randomAnswered_eq hu)).trans rfl

theorem frameRegisters_of_expiry (ht : expiry P s = .next t) : frameRegisters t = frameRegisters s := by
  rcases expiry_eq_next.mp ht with ⟨_, ht⟩ | ⟨_, rfl⟩ | ⟨_, ht⟩ | ⟨_, rfl⟩ | ⟨_, rfl⟩
  · exact frameRegisters_of_sensingExpiry ht
  · rfl
  · exact (frameRegisters_of_enterBackoff ht).trans rfl
  · rfl
  · exact frameRegisters_takeError _ s

theorem frameRegisters_of_tickElapses (ht : tickElapses P s = .next t) : frameRegisters t = frameRegisters s := by
  rcases tickElapses_eq_next.mp ht with ⟨_, rfl⟩ | ⟨_, hexpiry⟩ | ⟨_, rfl⟩
  · rfl
  · exact (frameRegisters_of_expiry hexpiry).trans rfl
  · rfl

/-! #### A running block is locked, and a pending request is not replaced (R150, R152, R174) -/

theorem writeConfig_of_running (hrun : running s = true) (idx : Byte) (val : Word) : writeConfig idx val s = s := by
  obtain ⟨hvalid, _⟩ := (running_iff s).mp hrun
  exact if_pos (by simp [hvalid])

theorem initialise_of_running (hrun : running s = true) : initialise P s = takeError .refused s := by
  obtain ⟨hvalid, _⟩ := (running_iff s).mp hrun
  exact if_pos (by simp [hvalid])

theorem frameRegisters_of_requestSend {dst : Byte} {len : Half} {payload : List Byte} (hpend : s.sendPending = true)
    (ht : requestSend P dst len payload s = .next t) : frameRegisters t = frameRegisters s := by
  rcases requestSend_next ht with ⟨_, rfl⟩ | ⟨_, hfree, _⟩ | ⟨_, hfree, _⟩
  · rfl
  all_goals exact absurd (hpend.symm.trans hfree) (by decide)

end

end Machine

namespace Inv

variable {P : Params} {s t : State}

/-- A request is pending only while running (10_state.md R52 item 2). -/
theorem running_of_sendPending (h : Inv P s) (hpend : s.sendPending = true) : running s = true := by
  by_contra hrun
  obtain ⟨_, _, _, hfree, _⟩ := h.notRunning (by simpa using hrun)
  exact absurd (hpend.symm.trans hfree) (by decide)

/-- Operation by operation: the three that write a register of the frame are refused, ignored, or end the request. -/
theorem frameRegisters_of_execFor (h : Inv P s) {i : Instr} (ht : execFor P i s = .next t)
    (hpend : s.sendPending = true) (hpend' : t.sendPending = true) : frameRegisters t = frameRegisters s := by
  have hrun := h.running_of_sendPending hpend
  cases i with
  | reset =>
    cases ht
    simp [resetBlock_eq, State.reset] at hpend'
  | cfgwr idx val =>
    cases ht
    rw [writeConfig_of_running hrun]
  | init =>
    cases ht
    rw [initialise_of_running hrun, frameRegisters_takeError]
  | send => exact frameRegisters_of_requestSend hpend ht
  | cancel =>
    cases ht
    exact frameRegisters_cancelSend s
  | byte => exact frameRegisters_of_byteArrives ht
  | tick => exact frameRegisters_of_tickElapses ht
  | rdreg | lineidle | random | txen | write | senddone | rxdeliver | drop =>
    cases ht
    rfl

end Inv

/-- Settles O52: the wire frame is a function of registers that no operation changes while the request is pending. -/
theorem everyAttemptSendsTheSameFrame : Obligations.EveryAttemptSendsTheSameFrame := by
  intro i s t h ht hpend hpend'
  rw [exec_eq_execFor] at ht
  have hsame := h.frameRegisters_of_execFor ht hpend hpend'
  obtain ⟨hdst, hlen, _⟩ := frameRegisters_eq_iff.mp hsame
  exact ⟨wireFrame_of_frameRegisters_eq defaultParams hsame, hdst, hlen⟩

end Sys2Proof

/-!
SUPPORT. The family 30_encoding.md: the record of an operation and the operation determine each other (R96, R97, R101),
`StuffDecode` reads the block table (R83, R113), the bytes of a frame are received whole (R103, R118, R201), and a trace
is read back (R97). Before the last two stand the round trip of a frame through the codec, and what it means that a
procedure does not look at `input`.
-/

namespace Sys2Proof

open Machine

/-! ### Code bytes (30_encoding.md R96, R101) -/

/-- The column `code` of R96, row by row. -/
def OpCode.codeByte : OpCode → Byte
  | .reset => 0x00
  | .cfgwr => 0x01
  | .rdreg => 0x02
  | .init => 0x03
  | .send => 0x04
  | .cancel => 0x05
  | .byte => 0x10
  | .tick => 0x11
  | .lineidle => 0x18
  | .random => 0x19
  | .txen => 0x20
  | .write => 0x21
  | .senddone => 0x22
  | .rxdeliver => 0x23
  | .drop => 0x24

theorem opCode_codeByte (op : OpCode) : opCode op.codeByte = some op := by
  cases op <;> rfl

/-- A row has one code byte. -/
theorem eq_codeByte_of_opCode {c : Byte} {op : OpCode} (h : opCode c = some op) : c = op.codeByte := by
  unfold opCode at h
  split at h <;> cases h
  all_goals exact BitVec.eq_of_toNat_eq ‹_›

/-- A code byte outside the column `code` of R96 has no row. -/
theorem opCode_eq_none {c : Byte} (h : ∀ op : OpCode, c ≠ op.codeByte) : opCode c = none := by
  cases hop : opCode c with
  | none => rfl
  | some op => exact absurd (eq_codeByte_of_opCode hop) (h op)

/-! ### Records (R97) -/

/-- The row of an operation. -/
def Instr.row : Instr → OpCode
  | .reset => .reset
  | .cfgwr _ _ => .cfgwr
  | .rdreg _ => .rdreg
  | .init => .init
  | .send _ _ _ => .send
  | .cancel => .cancel
  | .byte _ => .byte
  | .tick => .tick
  | .lineidle _ => .lineidle
  | .random _ => .random
  | .txen _ => .txen
  | .write _ => .write
  | .senddone _ => .senddone
  | .rxdeliver _ _ _ => .rxdeliver
  | .drop _ => .drop

theorem code_eq_codeByte (i : Instr) : code i = i.row.codeByte := by
  cases i <;> rfl

/-! A field is read from its own bytes, whatever follows them. -/

@[simp] theorem withByte_cons (b : Byte) (rest : List Byte) (k : Byte → List Byte → Decoded) :
    withByte (b :: rest) k = k b rest := rfl

@[simp] theorem withHalf_append (v : Half) (rest : List Byte) (k : Half → List Byte → Decoded) :
    withHalf (halfBytes v ++ rest) k = k v rest :=
  congrArg (k · rest) (half_of_bytes v)

@[simp] theorem withWord_append (v : Word) (rest : List Byte) (k : Word → List Byte → Decoded) :
    withWord (wordBytes v ++ rest) k = k v rest :=
  congrArg (k · rest) (word_of_bytes v)

theorem withBit_cons (on : Bool) (rest : List Byte) (k : Bool → List Byte → Decoded) :
    withBit ((if on then 1 else 0) :: rest) k = k on rest := by
  cases on <;> rfl

/-- The operands of a row are read back from their bytes, row by row (R97). -/
theorem decodeOperands_append {i : Instr} (rest : List Byte) (hwf : i.wf = true) :
    decodeOperands i.row (operandBytes i ++ rest) = .record i rest := by
  cases i with
  | send dst len payload | rxdeliver src len payload =>
    have hlen : payload.length = len.toNat := by simpa [Instr.wf] using hwf
    simp [decodeOperands, Instr.row, operandBytes, withPayload_append rest _ hlen]
  | cfgwr | lineidle | random => simp [decodeOperands, Instr.row, operandBytes]
  | txen on => exact withBit_cons on rest fun on rest => .record (.txen on) rest
  | reset | rdreg | init | cancel | byte | tick | write | senddone | drop => rfl

theorem decode_encode_append {i : Instr} (rest : List Byte) (hwf : i.wf = true) :
    decode (encode i ++ rest) = .record i rest := by
  simp only [decode, encode, List.cons_append, code_eq_codeByte, opCode_codeByte, decodeOperands_append rest hwf]

/-- Settles O1, by the code byte and the operands of each row. -/
theorem decodingAnEncodedOperationGivesItBack : Obligations.DecodingAnEncodedOperationGivesItBack :=
  fun _ rest hwf => decode_encode_append rest hwf

theorem withBit_eq_record {bs : List Byte} {k : Bool → List Byte → Decoded} {i : Instr} {rest : List Byte}
    (h : withBit bs k = .record i rest) : ∃ on r, bs = (if on then 1 else 0) :: r ∧ k on r = .record i rest := by
  obtain ⟨b, r, rfl, hk⟩ := withByte_eq_record h
  split_ifs at hk with hzero hone
  · exact ⟨false, r, by simp [hzero], hk⟩
  · exact ⟨true, r, by simp [hone], hk⟩

/-- What a row accepts is an operation of that row and its operand bytes (R97). -/
theorem decodeOperands_eq_record {op : OpCode} {bs rest : List Byte} {i : Instr}
    (h : decodeOperands op bs = .record i rest) : i.row = op ∧ bs = operandBytes i ++ rest := by
  cases op with
  | send | rxdeliver =>
    obtain ⟨_, _, rfl, hlen⟩ := withByte_eq_record h
    obtain ⟨_, _, rfl, hpayload⟩ := withHalf_eq_record hlen
    obtain ⟨_, _, rfl, _, hrecord⟩ := withPayload_eq_record hpayload
    cases hrecord
    exact ⟨rfl, by simp [operandBytes]⟩
  | reset | init | cancel | tick =>
    cases h
    exact ⟨rfl, rfl⟩
  | rdreg | byte | write | senddone | drop =>
    obtain ⟨_, _, rfl, hrecord⟩ := withByte_eq_record h
    cases hrecord
    exact ⟨rfl, rfl⟩
  | lineidle | random =>
    simp only [decodeOperands] at h
    obtain ⟨_, _, rfl, hrecord⟩ := withWord_eq_record h
    cases hrecord
    exact ⟨rfl, rfl⟩
  | cfgwr =>
    obtain ⟨_, _, rfl, hval⟩ := withByte_eq_record h
    obtain ⟨_, _, rfl, hrecord⟩ := withWord_eq_record hval
    cases hrecord
    exact ⟨rfl, rfl⟩
  | txen =>
    simp only [decodeOperands] at h
    obtain ⟨_, _, rfl, hrecord⟩ := withBit_eq_record h
    cases hrecord
    exact ⟨rfl, rfl⟩

theorem eq_encode_append_of_decode {bytes rest : List Byte} {i : Instr} (h : decode bytes = .record i rest) :
    bytes = encode i ++ rest := by
  cases bytes with
  | nil => cases h
  | cons c bs =>
    simp only [decode] at h
    split at h
    · cases h
    · next op hop =>
      obtain ⟨rfl, rfl⟩ := decodeOperands_eq_record h
      rw [eq_codeByte_of_opCode hop, encode, code_eq_codeByte, List.cons_append]

/-- Settles O2: the row of the code byte and the operands it reads determine the bytes. -/
theorem everyDecodedRecordIsAnEncoding : Obligations.EveryDecodedRecordIsAnEncoding :=
  fun _ _ _ h => ⟨decode_wf h, eq_encode_append_of_decode h⟩

theorem decode_of_opCode_eq_none {c : Byte} (rest : List Byte) (h : opCode c = none) :
    decode (c :: rest) = .reservedCode c := by
  simp only [decode, h]

theorem step_of_reservedCode {s : State} {c : Byte} (h : decode s.input = .reservedCode c) :
    step s = .refused (.reservedCode c) := by
  simp only [step, fetch, h]

/-- Settles O3: the listed codes are those of the fifteen rows. -/
theorem reservedCodesAreRejected : Obligations.ReservedCodesAreRejected := by
  intro c rest hc
  have hnone : opCode c = none := opCode_eq_none fun op hop => by
    subst hop
    cases op <;> exact hc (by decide)
  have hreserved := decode_of_opCode_eq_none rest hnone
  exact ⟨hreserved, fun s hs => step_of_reservedCode (hs ▸ hreserved)⟩

/-- Settles O4: each of the eight is the record of its operation. -/
theorem writtenOutRecordsDecode : Obligations.WrittenOutRecordsDecode :=
  ⟨decode_encode_append (i := .cfgwr 1 280) [] rfl, decode_encode_append (i := .rdreg 9) [] rfl,
    decode_encode_append (i := .send 0xFF 2 [0x41, 0x41]) [] rfl,
    decode_encode_append (i := .tick) [0x18, 0x00, 0x00, 0x13, 0x88] rfl,
    decode_encode_append (i := .lineidle 5000) [] rfl, decode_encode_append (i := .random 300) [] rfl,
    decode_encode_append (i := .txen true) [] rfl,
    decode_encode_append (i := .rxdeliver 2 2 [0x42, 0x42]) [] rfl⟩

/-- Settles O40: each of the five arms of `exec` is `emit`. -/
theorem outputActionsAreEmitted : Obligations.OutputActionsAreEmitted :=
  fun _ _ _ _ _ => ⟨rfl, rfl, rfl, rfl, rfl⟩

/-! ### The block table (R83, R89, 40_frame_codec.md R113) -/

namespace Machine

theorem unstuffLoop_nil (fuel : Nat) : unstuffLoop fuel [] = some [] := by
  cases fuel <;> rfl

/-- One block of the table and the bytes after it: what `StuffDecode` makes of them (R113). -/
theorem unstuffLoop_block (fuel : Nat) {c : Byte} {data rest : List Byte} (hc : c.toNat = data.length + 1)
    (hdata : 0#8 ∉ data) :
    unstuffLoop (fuel + 1) (c :: data ++ rest) =
      (unstuffLoop fuel rest).map fun out => if c ≠ 0xFF#8 ∧ rest ≠ [] then data ++ 0#8 :: out else data ++ out := by
  have hzero : c ≠ 0#8 := by
    rintro rfl
    simp at hc
  have hcount : c.toNat - 1 = data.length := by omega
  have hlong : ¬(data ++ rest).length < data.length := by simp
  simp only [List.cons_append, unstuffLoop, if_neg hzero, hcount, if_neg hlong, List.take_left, List.drop_left,
    if_neg hdata]
  cases unstuffLoop fuel rest with
  | none => rfl
  | some out => exact (apply_ite some _ _ _).symm

/-- Bytes that `StuffDecode` accepts begin with a block of the table. -/
theorem block_of_unstuffLoop {fuel : Nat} {c : Byte} {s d : List Byte} (h : unstuffLoop fuel (c :: s) = some d) :
    ∃ n data rest, fuel = n + 1 ∧ s = data ++ rest ∧ c.toNat = data.length + 1 ∧ 0#8 ∉ data := by
  cases fuel with
  | zero => cases h
  | succ n =>
    unfold unstuffLoop at h
    split at h
    · cases h
    split at h
    · cases h
    split at h
    · cases h
    next hzero hshort hdelim =>
      have hpos : c.toNat ≠ 0 := fun h0 => hzero (BitVec.eq_of_toNat_eq h0)
      exact ⟨n, _, _, rfl, (List.take_append_drop (c.toNat - 1) s).symm, by rw [List.length_take]; omega, hdelim⟩

end Machine

/-- Reading block by block, the last block being the one that no byte follows. -/
theorem unstuffed_of_unstuffLoop {fuel : Nat} {body d : List Byte} (h : unstuffLoop fuel body = some d) :
    Unstuffed body d := by
  induction fuel generalizing body d with
  | zero =>
    cases body with
    | nil =>
      cases h
      exact .empty
    | cons c s => cases h
  | succ fuel ih =>
    cases body with
    | nil =>
      cases h
      exact .empty
    | cons c s =>
      obtain ⟨n, data, rest, hn, rfl, hc, hdata⟩ := block_of_unstuffLoop h
      cases hn
      rw [← List.cons_append, unstuffLoop_block fuel hc hdata, Option.map_eq_some_iff] at h
      obtain ⟨out, hout, rfl⟩ := h
      by_cases hrest : rest = []
      · subst hrest
        rw [unstuffLoop_nil] at hout
        cases hout
        simpa using Unstuffed.last c data hc hdata
      · by_cases hfull : c = 0xFF#8
        · subst hfull
          have hlen : data.length = 254 := (Nat.succ.inj hc).symm
          simpa using Unstuffed.full data rest out hlen hdata hrest (ih hout)
        · simpa [hfull, hrest] using Unstuffed.zero c data rest out hc hdata hfull hrest (ih hout)

/-- Enough rounds for a block and the bytes after it leave enough for those bytes. -/
theorem rounds_after_block {c : Byte} {data rest : List Byte} {fuel : Nat}
    (h : (c :: data ++ rest).length ≤ fuel) : ∃ n, fuel = n + 1 ∧ rest.length ≤ n := by
  simp only [List.cons_append, List.length_cons, List.length_append] at h
  exact ⟨fuel - 1, by omega, by omega⟩

/-- Each block takes one round and at least one byte, so as many rounds as bytes are enough (log 13). -/
theorem unstuffLoop_of_unstuffed {body d : List Byte} (h : Unstuffed body d) {fuel : Nat}
    (hfuel : body.length ≤ fuel) : unstuffLoop fuel body = some d := by
  induction h generalizing fuel with
  | empty => exact unstuffLoop_nil fuel
  | last c data hc hdata =>
    obtain ⟨n, rfl, _⟩ := rounds_after_block (c := c) (rest := []) (by simpa using hfuel)
    simpa [unstuffLoop_nil] using unstuffLoop_block n (rest := []) hc hdata
  | zero c data rest out hc hdata hfull hrest _ ih =>
    obtain ⟨n, rfl, hn⟩ := rounds_after_block hfuel
    rw [unstuffLoop_block n hc hdata, ih hn, Option.map_some, if_pos ⟨hfull, hrest⟩]
    rfl
  | full data rest out hlen hdata hrest _ ih =>
    obtain ⟨n, rfl, hn⟩ := rounds_after_block hfuel
    rw [unstuffLoop_block n (by rw [hlen]; rfl) hdata, ih hn]
    simp

theorem stuffDecode_eq_some_iff {body d : List Byte} : stuffDecode body = some d ↔ Unstuffed body d :=
  ⟨unstuffed_of_unstuffLoop, fun h => unstuffLoop_of_unstuffed h (Nat.le_refl _)⟩

/-- Settles O8, by induction on the rounds of the loop, and on the blocks of the table. -/
theorem unstuffingReadsExactlyTheBlockTable : Obligations.UnstuffingReadsExactlyTheBlockTable :=
  fun _ _ => stuffDecode_eq_some_iff

/-! ### A frame through the codec (40_frame_codec.md R114, R116, R118) -/

namespace Machine

theorem stuffLoop_ne_nil (blk d : List Byte) : stuffLoop blk d ≠ [] := by
  induction d generalizing blk with
  | nil => exact List.cons_ne_nil _ _
  | cons b d ih =>
    simp only [stuffLoop]
    split_ifs
    · exact List.cons_ne_nil _ _
    · exact List.cons_ne_nil _ _
    · exact ih _

/-- The code byte of a block counts its data bytes. -/
theorem toNat_blockCode {blk : List Byte} (h : blk.length ≤ 254) :
    (BitVec.ofNat 8 (blk.length + 1)).toNat = blk.length + 1 := by
  rw [BitVec.toNat_ofNat, Nat.mod_eq_of_lt (by omega)]

theorem delim_notMem_stuffBlock {blk : List Byte} (hlen : blk.length ≤ 254) (hblk : 0#8 ∉ blk) :
    delim ∉ stuffBlock blk := by
  have hcode : delim ≠ BitVec.ofNat 8 (blk.length + 1) := fun h => by
    have := congrArg BitVec.toNat h
    rw [toNat_blockCode hlen] at this
    simp [delim] at this
  rw [stuffBlock, List.mem_cons, not_or]
  exact ⟨hcode, hblk⟩

/-- The loop writes no delimiter: a zero byte of the data ends a block (R112). -/
theorem delim_notMem_stuffLoop (d : List Byte) {blk : List Byte} (hlen : blk.length < 254) (hblk : 0#8 ∉ blk) :
    delim ∉ stuffLoop blk d := by
  induction d generalizing blk with
  | nil => exact delim_notMem_stuffBlock (by omega) hblk
  | cons b d ih =>
    have hnil : delim ∉ stuffLoop [] d := ih (by simp) (by simp)
    simp only [stuffLoop]
    split_ifs with hzero hfull
    · exact List.mem_append.not.mpr (not_or.mpr ⟨delim_notMem_stuffBlock (by omega) hblk, hnil⟩)
    all_goals have hblk' : 0#8 ∉ blk ++ [b] := by simp [hblk, Ne.symm hzero]
    · exact List.mem_append.not.mpr (not_or.mpr ⟨delim_notMem_stuffBlock (by omega) hblk', hnil⟩)
    · exact ih (by simp at hfull ⊢; omega) hblk'

/-- The blocks that the loop writes stand, by the table of R83, for the block under construction and the data. -/
theorem unstuffed_stuffLoop (d : List Byte) {blk : List Byte} (hlen : blk.length < 254) (hblk : 0#8 ∉ blk) :
    Unstuffed (stuffLoop blk d) (blk ++ d) := by
  induction d generalizing blk with
  | nil => simpa [stuffLoop, stuffBlock] using Unstuffed.last _ blk (toNat_blockCode (by omega)) hblk
  | cons b d ih =>
    have hnil : Unstuffed (stuffLoop [] d) d := ih (blk := []) (by simp) (by simp)
    have hrest := stuffLoop_ne_nil [] d
    simp only [stuffLoop]
    split_ifs with hzero hfull
    · subst hzero
      have hcode := toNat_blockCode (Nat.le_of_lt hlen)
      have hshort : BitVec.ofNat 8 (blk.length + 1) ≠ 0xFF := fun h => by
        rw [h] at hcode
        simp at hcode
        omega
      exact .zero _ blk _ d hcode hblk hshort hrest hnil
    all_goals have hblk' : 0#8 ∉ blk ++ [b] := by simp [hblk, Ne.symm hzero]
    · have hblock : stuffBlock (blk ++ [b]) = 0xFF :: (blk ++ [b]) := by rw [stuffBlock, hfull]; rfl
      rw [hblock, List.append_cons blk b d]
      exact .full _ _ d hfull hblk' hrest hnil
    · rw [List.append_cons blk b d]
      exact ih (by simp at hfull ⊢; omega) hblk'

theorem stuffEncode_ne_nil (d : List Byte) : stuffEncode d ≠ [] := stuffLoop_ne_nil [] d

theorem delim_notMem_stuffEncode (d : List Byte) : delim ∉ stuffEncode d :=
  delim_notMem_stuffLoop d (by simp) (by simp)

theorem stuffDecode_stuffEncode (d : List Byte) : stuffDecode (stuffEncode d) = some d :=
  stuffDecode_eq_some_iff.mpr (unstuffed_stuffLoop d (blk := []) (by simp) (by simp))

/-- The four checks pass on the raw frame of a payload within the limit (R117, R118). -/
theorem decodeRaw_rawFrame {checksum : List Byte → Half} {maxPayload : Half} {payload : List Byte} (dst src : Byte)
    (h : payload.length ≤ maxPayload.toNat) :
    decodeRaw checksum maxPayload (rawFrame checksum dst src payload) = .frame ⟨dst, src, payload⟩ := by
  have hlen := rawFrame_length checksum dst src payload
  simp only [rawLen] at hlen
  have hbody : (rawFrame checksum dst src payload).length - 2 = (dst :: src :: payload).length := by
    simp only [List.length_cons]
    omega
  have htake : (rawFrame checksum dst src payload).take (dst :: src :: payload).length = dst :: src :: payload :=
    List.take_left
  have hdrop : (rawFrame checksum dst src payload).drop (dst :: src :: payload).length =
      checksumBytes (checksum (dst :: src :: payload)) := List.drop_left
  rw [decodeRaw, if_neg (by omega), if_neg (by omega), hbody, htake, hdrop, if_neg (not_not_intro rfl)]

theorem decodeFrame_stuffEncode_rawFrame {checksum : List Byte → Half} {maxPayload : Half} {payload : List Byte}
    (dst src : Byte) (h : payload.length ≤ maxPayload.toNat) :
    decodeFrame checksum maxPayload (stuffEncode (rawFrame checksum dst src payload)) = .frame ⟨dst, src, payload⟩ := by
  rw [decodeFrame, stuffDecode_stuffEncode]
  exact decodeRaw_rawFrame dst src h

theorem encodeFrame_of_le {checksum : List Byte → Half} {maxPayload : Half} {payload : List Byte} (dst src : Byte)
    (h : payload.length ≤ maxPayload.toNat) :
    encodeFrame checksum maxPayload dst src payload =
      some (stuffEncode (rawFrame checksum dst src payload) ++ [delim]) :=
  if_neg (by omega)

/-! ### Scripts (30_encoding.md R103) -/

theorem runScript_append (is js : List Instr) (s : State) :
    runScript (is ++ js) s = andThen (runScript is s) (runScript js) := by
  induction is generalizing s with
  | nil => rfl
  | cons i is ih =>
    simp only [List.cons_append, runScript]
    cases exec i s with
    | next t => exact ih t
    | fault e => rfl
    | refused e => rfl

/-! ### Receiving a body (43_mac.md R199 to R203) -/

section

variable {s : State}

/-- A byte in `SensingCarrier` is the first of a reception (R180). -/
theorem exec_byte_of_sensing (b : Byte) (hrun : running s = true) (hp : s.phase = .sensingCarrier) :
    exec (.byte b) s = exec (.byte b) (enterReceiving s) := by
  simp [exec, execByte, byteArrives, hrun, hp]

theorem exec_byte_of_receiving (b : Byte) (hrun : running s = true) (hp : s.phase = .receiving) :
    exec (.byte b) s = rxByte defaultParams b s := by
  simp [exec, execByte, byteArrives, hrun, hp]

/-- A block in `Receiving` that has stored the bytes of `body` after those it held. -/
def stored (body : List Byte) (s : State) : State :=
  { s with
    buf := Memory.writeBytes s.buf s.bufLen.toNat body, bufLen := s.bufLen + BitVec.ofNat 16 body.length,
    timer := s.ifgTicks }

theorem stored_nil (htimer : s.timer = s.ifgTicks) : stored [] s = s := by
  cases s
  simp_all [stored, Memory.writeBytes]

theorem stored_cons (b : Byte) (body : List Byte) (hlen : (s.bufLen + 1).toNat = s.bufLen.toNat + 1) :
    stored body (stored [b] s) = stored (b :: body) s := by
  have hfirst : stored [b] s = { s with
    buf := Memory.write s.buf s.bufLen.toNat b, bufLen := s.bufLen + 1, timer := s.ifgTicks } := rfl
  have hsum : s.bufLen + 1 + BitVec.ofNat 16 body.length = s.bufLen + BitVec.ofNat 16 (body.length + 1) := by
    bv_omega
  rw [hfirst]
  simp only [stored, Memory.writeBytes, List.length_cons, hlen, hsum]

/-- Bytes other than the delimiter are stored one after the other, up to `RX_LIMIT` (R199, R200). -/
theorem runScript_stores (body : List Byte) (hrun : running s = true) (hp : s.phase = .receiving)
    (htimer : s.timer = s.ifgTicks) (hdelim : delim ∉ body) (hfit : s.bufLen.toNat + body.length ≤ rxLimit s)
    (hroom : rxLimit s < bufCap defaultParams) : runScript (body.map .byte) s = .next (stored body s) := by
  have hcap := bufCap_lt_of_legal defaultParams_legal
  induction body generalizing s with
  | nil => rw [stored_nil htimer]; rfl
  | cons b body ih =>
    simp only [List.mem_cons, not_or, List.length_cons] at hdelim hfit
    obtain ⟨hb, hrest⟩ := hdelim
    have hlen : (s.bufLen + 1).toNat = s.bufLen.toNat + 1 := by bv_omega
    have hfirst : exec (.byte b) s = .next (stored [b] s) := by
      rw [exec_byte_of_receiving b hrun hp, rxByte, if_neg (Ne.symm hb)]
      exact rxStore_eq_next.mpr (.inl ⟨by omega, by omega, rfl⟩)
    have htail : runScript (body.map .byte) (stored [b] s) = .next (stored body (stored [b] s)) :=
      ih (s := stored [b] s) hrun hp rfl hrest
        (show (s.bufLen + 1).toNat + body.length ≤ rxLimit s by omega) hroom
    rw [List.map_cons, runScript, hfirst, andThen_next, htail, stored_cons b body hlen]

/-- The output of the end of a body that decodes to a frame: a delivery where `Accepts` holds, else a drop (R201). -/
def frameOutput (s : State) (f : Frame) : Output :=
  if f.destination = s.localAddr ∨ f.destination = s.bcastAddr then
    .rxdeliver f.source (BitVec.ofNat 16 f.payload.length) f.payload
  else .drop 0x06

theorem deliver_frame (f : Frame) : deliver s (.frame f) = enterIdle (emit (frameOutput s f) s) := by
  simp only [deliver, frameOutput, accepts, Bool.or_eq_true, beq_iff_eq]
  split_ifs <;> rfl

/-- From listening, a body without a delimiter and of at most `RX_LIMIT` bytes is decoded whole at its delimiter. -/
theorem runScript_receives {body : List Byte} (hrun : running s = true) (hp : s.phase = .sensingCarrier)
    (hbody : body ≠ []) (hdelim : delim ∉ body) (hfit : body.length ≤ rxLimit s)
    (hroom : rxLimit s < bufCap defaultParams) :
    runScript ((body ++ [delim]).map .byte) s =
      .next (deliver (stored body (enterReceiving s)) (decodeFrame checksum16 s.maxPayload body)) := by
  have hcap := bufCap_lt_of_legal defaultParams_legal
  have hstart : runScript (body.map .byte) s = .next (stored body (enterReceiving s)) := by
    obtain ⟨b, bs, rfl⟩ := List.exists_cons_of_ne_nil hbody
    rw [List.map_cons, runScript, exec_byte_of_sensing b hrun hp]
    exact runScript_stores (s := enterReceiving s) (b :: bs) hrun rfl rfl hdelim
      (show 0 + (b :: bs).length ≤ rxLimit s by rwa [Nat.zero_add]) hroom
  have hread : bufBytes (stored body (enterReceiving s)) = some body := by
    have hlen : (0 + BitVec.ofNat 16 body.length).toNat = body.length := by bv_omega
    show Memory.readBytes (Memory.writeBytes s.buf 0 body) 0 (0 + BitVec.ofNat 16 body.length).toNat = some body
    rw [hlen, Memory.readBytes_writeBytes]
  have hend : exec (.byte delim) (stored body (enterReceiving s)) =
      .next (deliver (stored body (enterReceiving s)) (decodeFrame checksum16 s.maxPayload body)) := by
    rw [exec_byte_of_receiving (s := stored body (enterReceiving s)) delim hrun rfl, rxByte, if_pos rfl]
    exact rxComplete_eq_next.mpr (.inr ⟨rfl, body, hread, rfl⟩)
  rw [List.map_append, runScript_append, hstart, andThen_next, List.map_cons, runScript, hend]
  rfl

end

end Machine

/-- Every phase but `Idle` is one of a running block (10_state.md R52 item 2). -/
theorem Inv.running_of_phase {P : Params} {s : State} (h : Inv P s) (hp : s.phase ≠ .idle) : running s = true := by
  by_contra hno
  obtain ⟨hidle, _⟩ := h.notRunning (by simpa using hno)
  exact hp hidle

/-- Settles O54: the body of the frame is stored whole, decodes to the frame, and its end emits one output. -/
theorem anEncodedFrameIsReceivedWhole : Obligations.AnEncodedFrameIsReceivedWhole := by
  intro s dst src payload h hp hlen
  have hrun := h.running_of_phase (by simp [hp])
  have hfit := stuffEncode_length_le (rawFrame checksum16 dst src payload)
  rw [rawFrame_length] at hfit
  have hlimit : stuffMax (rawLen payload.length) ≤ rxLimit s := stuffMax_mono (Nat.add_le_add_right hlen 4)
  have hreceives := runScript_receives hrun hp (stuffEncode_ne_nil _)
    (delim_notMem_stuffEncode (rawFrame checksum16 dst src payload)) (hfit.trans hlimit) (h.rxLimit_lt_bufCap hrun)
  refine ⟨_, _, by rw [scriptFrame, encodeFrame_of_le dst src hlen]; rfl, hreceives, ?_⟩
  rw [decodeFrame_stuffEncode_rawFrame dst src hlen, deliver_frame,
    enterIdle_of_running (by exact hrun)]
  exact ⟨rfl, rfl, rfl, rfl, rfl⟩

/-! ### Operations that ask no question (60_exceptions.md R263, R264)

The delivered bytes and the questions asked are seen by the two questions alone: every procedure but the expiry of
`SensingCarrier` and that of `Jamming` runs alike whatever they are. -/

namespace Machine

/-- The state with other bytes delivered and other questions asked. -/
def withBoundary (bytes : List Byte) (asked : List Question) (s : State) : State :=
  { s with input := bytes, asked := asked }

section

variable (P : Params) (bytes : List Byte) (asked : List Question) (s : State)

theorem enterIdle_withBoundary : enterIdle (withBoundary bytes asked s) = withBoundary bytes asked (enterIdle s) := by
  cases hrun : running s with
  | true =>
    rw [enterIdle_of_running hrun, enterIdle_of_running (s := withBoundary bytes asked s) hrun]
    rfl
  | false =>
    rw [enterIdle_of_not_running hrun, enterIdle_of_not_running (s := withBoundary bytes asked s) hrun]
    rfl

theorem completeSend_withBoundary (status : Byte) :
    completeSend status (withBoundary bytes asked s) = withBoundary bytes asked (completeSend status s) :=
  enterIdle_withBoundary bytes asked (emit (.senddone status) { s with sendPending := false, retry := 0 })

theorem takeError_withBoundary (e : Error) :
    takeError e (withBoundary bytes asked s) = withBoundary bytes asked (takeError e s) := by
  cases e with
  | payloadTooLarge | refused | misconfiguredTiming => rfl
  | checksumMismatch | malformedFrame | notAddressed => exact enterIdle_withBoundary bytes asked (emit _ s)
  | collisionRetriesExhausted => exact completeSend_withBoundary bytes asked s _

theorem deliver_withBoundary (r : DecodeResult) :
    deliver (withBoundary bytes asked s) r = withBoundary bytes asked (deliver s r) := by
  cases r with
  | frame f =>
    rw [deliver_frame, deliver_frame]
    exact enterIdle_withBoundary bytes asked (emit (frameOutput s f) s)
  | checksumMismatch => exact takeError_withBoundary bytes asked s .checksumMismatch
  | malformedFrame => exact takeError_withBoundary bytes asked s .malformedFrame

theorem backoffAfterDraw_withBoundary (delay : Nat) :
    backoffAfterDraw delay (withBoundary bytes asked s) = withBoundary bytes asked (backoffAfterDraw delay s) := by
  simp only [backoffAfterDraw_eq, apply_ite (withBoundary bytes asked), ← takeError_withBoundary]
  rfl

theorem writeConfig_withBoundary (idx : Byte) (val : Word) :
    writeConfig idx val (withBoundary bytes asked s) = withBoundary bytes asked (writeConfig idx val s) := by
  have hwrite : writeReg idx val (withBoundary bytes asked s) = withBoundary bytes asked (writeReg idx val s) := by
    unfold writeReg
    split <;> rfl
  simp only [writeConfig, apply_ite (withBoundary bytes asked), ← hwrite]
  rfl

theorem initialise_withBoundary :
    initialise P (withBoundary bytes asked s) = withBoundary bytes asked (initialise P s) := by
  have henter : enterIdle { withBoundary bytes asked s with cfgValid := true } =
      withBoundary bytes asked (enterIdle { s with cfgValid := true }) :=
    enterIdle_withBoundary bytes asked { s with cfgValid := true }
  simp only [initialise, henter, apply_ite (withBoundary bytes asked)]
  rfl

theorem cancelSend_withBoundary :
    cancelSend (withBoundary bytes asked s) = withBoundary bytes asked (cancelSend s) := by
  simp only [cancelSend, apply_ite (withBoundary bytes asked)]
  rfl

theorem resetBlock_withBoundary :
    resetBlock (withBoundary bytes asked s) = withBoundary bytes asked (resetBlock s) := by
  rw [resetBlock_eq, resetBlock_eq]
  rfl

end

/-- The procedure neither sees nor changes `input` and `asked`, where it ends in a next state. -/
def AsksNothing (f : State → Result) : Prop :=
  ∀ ⦃s t : State⦄ (bytes : List Byte) (asked : List Question), f s = .next t →
    f (withBoundary bytes asked s) = .next (withBoundary bytes asked t)

/-- An update that commutes with every change of the boundary asks nothing. -/
theorem asksNothing_of_commutes {f : State → State}
    (hf : ∀ bytes asked s, f (withBoundary bytes asked s) = withBoundary bytes asked (f s)) :
    AsksNothing fun s => .next (f s) := by
  intro s t bytes asked h
  cases h
  exact congrArg Host.Outcome.next (hf bytes asked s)

section

variable (P : Params)

theorem asksNothing_rxStore (b : Byte) : AsksNothing (rxStore P b) := by
  intro s t bytes asked h
  rcases rxStore_eq_next.mp h with ⟨hlt, hcap, rfl⟩ | ⟨hfull, rfl⟩
  · exact rxStore_eq_next.mpr (.inl ⟨hlt, hcap, rfl⟩)
  · exact rxStore_eq_next.mpr (.inr ⟨hfull, rfl⟩)

theorem asksNothing_rxComplete : AsksNothing (rxComplete P) := by
  intro s t bytes asked h
  rcases rxComplete_eq_next.mp h with ⟨hovf, rfl⟩ | ⟨hovf, body, hbody, rfl⟩
  · exact rxComplete_eq_next.mpr (.inl ⟨hovf, (takeError_withBoundary bytes asked s _).symm⟩)
  · exact rxComplete_eq_next.mpr (.inr ⟨hovf, body, hbody, (deliver_withBoundary bytes asked s _).symm⟩)

theorem asksNothing_rxByte (b : Byte) : AsksNothing (rxByte P b) := by
  intro s t bytes asked h
  unfold rxByte at h ⊢
  split_ifs at h ⊢
  · exact asksNothing_rxComplete P bytes asked h
  · exact asksNothing_rxStore P b bytes asked h

theorem asksNothing_echoByte (b : Byte) : AsksNothing (echoByte b) := by
  intro s t bytes asked h
  obtain ⟨e, he, ⟨hb, hlast, rfl⟩ | ⟨hb, hmore, w, hw, rfl⟩ | ⟨hb, rfl⟩⟩ := echoByte_eq_next.mp h
  · have hend := completeSend_withBoundary bytes asked (emit (.txen false) { s with idx := s.idx + 1, txen := false })
      okCode
    exact echoByte_eq_next.mpr ⟨e, he, .inl ⟨hb, hlast, hend.symm⟩⟩
  · exact echoByte_eq_next.mpr ⟨e, he, .inr (.inl ⟨hb, hmore, w, hw, rfl⟩)⟩
  · exact echoByte_eq_next.mpr ⟨e, he, .inr (.inr ⟨hb, rfl⟩)⟩

theorem asksNothing_beginTransmit : AsksNothing (beginTransmit P) := by
  intro s t bytes asked h
  obtain ⟨b, w, hframe, hcap, hpos, rfl⟩ := beginTransmit_eq_next.mp h
  exact beginTransmit_eq_next.mpr ⟨b, w, hframe, hcap, hpos, rfl⟩

/-- `BYTE`, phase by phase (43_mac.md R177). -/
theorem asksNothing_byteArrives (b : Byte) : AsksNothing (byteArrives P b) := by
  intro s t bytes asked h
  have hrun : running (withBoundary bytes asked s) = running s := rfl
  have hphase : (withBoundary bytes asked s).phase = s.phase := rfl
  unfold byteArrives at h ⊢
  rw [hrun, hphase]
  split_ifs at h ⊢
  · cases h
    rfl
  · cases hp : s.phase <;> simp only [hp] at h ⊢
    case idle => cases h
    case sensingCarrier =>
      have hstart : enterReceiving (withBoundary bytes asked s) = withBoundary bytes asked (enterReceiving s) := rfl
      rw [hstart]
      exact asksNothing_rxByte P b bytes asked h
    case transmitting => exact asksNothing_echoByte b bytes asked h
    case jamming | backingOff =>
      cases h
      rfl
    case receiving => exact asksNothing_rxByte P b bytes asked h

theorem asksNothing_requestSend (dst : Byte) (len : Half) (payload : List Byte) :
    AsksNothing (requestSend P dst len payload) := by
  intro s t bytes asked h
  have hrun : running (withBoundary bytes asked s) = running s := rfl
  have hpend : (withBoundary bytes asked s).sendPending = s.sendPending := rfl
  have hmax : (withBoundary bytes asked s).maxPayload = s.maxPayload := rfl
  unfold requestSend at h ⊢
  rw [hrun, hpend, hmax]
  split_ifs at h ⊢
  · cases h
    rfl
  · cases h
    rfl
  · cases h
    rfl
  · obtain ⟨u, hu, hend⟩ := andThen_eq_next.mp h
    obtain ⟨hcap, rfl⟩ := txPayWrite_eq_next.mp hu
    cases hend
    refine andThen_eq_next.mpr ⟨_, txPayWrite_eq_next.mpr ⟨hcap, rfl⟩, ?_⟩
    by_cases hwindow : s.phase = .sensingCarrier ∧ s.timer = 0#32
    · rw [if_pos hwindow, if_pos (by exact hwindow)]
      rfl
    · rw [if_neg hwindow, if_neg (by exact hwindow)]
      rfl

/-- Every operation but `TICK` (00_scope.md R9). -/
theorem asksNothing_execFor {i : Instr} (hi : i ≠ .tick) : AsksNothing (execFor P i) := by
  cases i with
  | tick => exact absurd rfl hi
  | reset => exact asksNothing_of_commutes resetBlock_withBoundary
  | cfgwr idx val => exact asksNothing_of_commutes fun bytes asked s => writeConfig_withBoundary bytes asked s idx val
  | init => exact asksNothing_of_commutes (initialise_withBoundary P)
  | send dst len payload => exact asksNothing_requestSend P dst len payload
  | cancel => exact asksNothing_of_commutes cancelSend_withBoundary
  | byte b => exact asksNothing_byteArrives P b
  | rdreg | lineidle | random | txen | write | senddone | rxdeliver | drop =>
    exact asksNothing_of_commutes fun _ _ _ => rfl

end

theorem AsksNothing.asked_eq {f : State → Result} {s t : State} (hf : AsksNothing f) (h : f s = .next t) :
    t.asked = s.asked := by
  have hself : f s = .next (withBoundary s.input s.asked t) := hf s.input s.asked h
  rw [h, Host.Outcome.next.injEq] at hself
  exact (congrArg State.asked hself).trans rfl

/-- Whatever bytes are delivered, the procedure leads to the same state and leaves them. -/
theorem AsksNothing.withInput {f : State → Result} {s t : State} (hf : AsksNothing f) (h : f s = .next t)
    (bytes : List Byte) : f { s with input := bytes } = .next { t with input := bytes } := by
  have hsame : f { s with input := bytes } = .next (withBoundary bytes s.asked t) := hf bytes s.asked h
  rw [hsame, ← hf.asked_eq h]
  rfl

/-! ### Operations that ask (R263, R264)

Where no answer is supplied, the answer is a free value; a trace writes its record, and with that record delivered the
same operation takes the same answer. -/

/-- No record delivered and no answer supplied ahead (log 3). -/
structure Unsupplied (s : State) : Prop where
  input : s.input = []
  lineIdleAns : s.lineIdleAns = []
  randomAns : s.randomAns = []

/-- With the record of the answer that `f` took on its way from `s` to `t` delivered, `f` leads to `t` again, and leaves
the bytes after that record. -/
def Replays (f : State → Result) (s t : State) : Prop :=
  ∀ bytes, f { s with input := answerRecord s t ++ bytes } = .next { t with input := bytes }

section

variable {P : Params} {s t : State}

theorem answerRecord_of_asked_eq (h : t.asked = s.asked) : answerRecord s t = [] := by
  simp [answerRecord, h]

theorem answerRecord_of_lineIdle (hs : Unsupplied s) (h : t.asked = s.asked ++ [.lineIdle]) :
    answerRecord s t = encode (.lineidle (Config.lineIdleDraw s.asked.length)) := by
  simp [answerRecord, h, askLineIdle, hs.lineIdleAns, hs.input, decode]

theorem answerRecord_of_random {range : Nat} (hs : Unsupplied s) (h : t.asked = s.asked ++ [.random range]) :
    answerRecord s t = encode (.random (BitVec.ofNat 32 (Config.randomDraw s.asked.length % range))) := by
  simp [answerRecord, h, askRandom, hs.randomAns, hs.input, decode]

/-- With nothing supplied, only the number of the question matters (log 3). -/
theorem answerRecord_congr {s' : State} (hs : Unsupplied s) (hs' : Unsupplied s') (h : s'.asked = s.asked) :
    answerRecord s' t = answerRecord s t := by
  unfold answerRecord
  rw [h]
  split
  · simp [askLineIdle, hs.lineIdleAns, hs.input, hs'.lineIdleAns, hs'.input, decode, h]
  · simp [askRandom, hs.randomAns, hs.input, hs'.randomAns, hs'.input, decode, h]
  · rfl

theorem lineIdleAnswered_of_unsupplied {q : Word} {u : State} (hs : Unsupplied s) (h : LineIdleAnswered s q u) :
    q = Config.lineIdleDraw s.asked.length ∧ u = { s with asked := s.asked ++ [.lineIdle] } := by
  rcases h with ⟨_, hans, _⟩ | ⟨_, _, hd, _⟩ | ⟨_, _, hq, hu⟩
  · simp [hs.lineIdleAns] at hans
  · simp [hs.input, decode] at hd
  · exact ⟨hq, hu⟩

theorem randomAnswered_of_unsupplied {range x : Nat} {u : State} (hs : Unsupplied s)
    (h : RandomAnswered s range x u) :
    x = Config.randomDraw s.asked.length % range ∧ u = { s with asked := s.asked ++ [.random range] } := by
  rcases h with ⟨_, _, hans, _⟩ | ⟨_, _, _, hd, _⟩ | ⟨_, _, hx, hu⟩
  · simp [hs.randomAns] at hans
  · simp [hs.input, decode] at hd
  · exact ⟨hx, hu⟩

/-- The record of an answer that stands first in `input` is taken (R97). -/
theorem lineIdleAnswered_of_record (q : Word) (bytes : List Byte) (hs : s.lineIdleAns = []) :
    LineIdleAnswered { s with input := encode (.lineidle q) ++ bytes } q
      { s with input := bytes, asked := s.asked ++ [.lineIdle] } :=
  .inr (.inl ⟨hs, bytes, decode_encode_append bytes rfl, rfl⟩)

theorem randomAnswered_of_record {range x : Nat} (bytes : List Byte) (hs : s.randomAns = []) (hx : x < range)
    (hrange : range ≤ 2 ^ 32) :
    RandomAnswered { s with input := encode (.random (BitVec.ofNat 32 x)) ++ bytes } range x
      { s with input := bytes, asked := s.asked ++ [.random range] } := by
  have hdraw : x = (BitVec.ofNat 32 x).toNat := by
    rw [BitVec.toNat_ofNat, Nat.mod_eq_of_lt (by omega)]
  exact .inr (.inl ⟨hs, _, bytes, decode_encode_append bytes rfl, hdraw, hx, rfl⟩)

theorem AsksNothing.replays {f : State → Result} (hf : AsksNothing f) (h : f s = .next t) : Replays f s t := by
  intro bytes
  rw [answerRecord_of_asked_eq (hf.asked_eq h)]
  exact hf.withInput h bytes

theorem update_replays {f : State → State}
    (hf : ∀ bytes asked s, f (withBoundary bytes asked s) = withBoundary bytes asked (f s)) (s : State)
    (bytes : List Byte) : f { s with input := answerRecord s (f s) ++ bytes } = { f s with input := bytes } :=
  Host.Outcome.next.inj ((asksNothing_of_commutes hf).replays rfl bytes)

/-- What the sensing expiry does with the answer (43_mac.md R186). -/
theorem sensingExpiry_replays (hs : Unsupplied s) (ht : sensingExpiry P s = .next t) :
    Replays (sensingExpiry P) s t := by
  obtain ⟨q, u, hu, hends⟩ := sensingExpiry_eq_next.mp ht
  obtain ⟨hq, rfl⟩ := lineIdleAnswered_of_unsupplied hs hu
  have hasked : t.asked = s.asked ++ [.lineIdle] := by
    rcases hends with ⟨_, rfl⟩ | ⟨_, _, hbegin⟩ | ⟨_, _, rfl⟩
    · rfl
    · exact (asksNothing_beginTransmit P).asked_eq hbegin
    · rfl
  intro bytes
  rw [answerRecord_of_lineIdle hs hasked, ← hq]
  refine sensingExpiry_eq_next.mpr ⟨q, _, lineIdleAnswered_of_record q bytes hs.lineIdleAns, ?_⟩
  rcases hends with ⟨hbusy, rfl⟩ | ⟨hquiet, hpend, hbegin⟩ | ⟨hquiet, hpend, rfl⟩
  · exact .inl ⟨hbusy, rfl⟩
  · exact .inr (.inl ⟨hquiet, hpend, (asksNothing_beginTransmit P).withInput hbegin bytes⟩)
  · exact .inr (.inr ⟨hquiet, hpend, rfl⟩)

/-- What follows the draw (44_backoff.md R231); the range fits the 32 bits of the record (R232). -/
theorem enterBackoff_replays (hs : Unsupplied s) (ht : enterBackoff s = .next t) : Replays enterBackoff s t := by
  obtain ⟨hlo, hhi, x, u, hdraw, rfl⟩ := enterBackoff_eq_next.mp ht
  have hx := askRandom_lt hdraw (Nat.succ_pos _)
  obtain ⟨hfree, rfl⟩ := randomAnswered_of_unsupplied hs hdraw
  have hafter := asksNothing_of_commutes fun bytes asked u =>
    backoffAfterDraw_withBoundary bytes asked u (backoffLo s + x)
  intro bytes
  rw [answerRecord_of_random hs (hafter.asked_eq rfl), ← hfree]
  have hrecord := randomAnswered_of_record bytes hs.randomAns hx (by omega)
  have hend := Host.Outcome.next.inj
    (hafter.withInput (s := { s with asked := s.asked ++ [.random (backoffHi s - backoffLo s + 1)] }) rfl bytes)
  exact enterBackoff_eq_next.mpr ⟨hlo, hhi, x, _, hrecord, hend.symm⟩

/-- The expiry rules, phase by phase (43_mac.md R178). -/
theorem expiry_replays (hs : Unsupplied s) (ht : expiry P s = .next t) : Replays (expiry P) s t := by
  intro bytes
  rcases expiry_eq_next.mp ht with ⟨hp, ht⟩ | ⟨hp, rfl⟩ | ⟨hp, ht⟩ | ⟨hp, rfl⟩ | ⟨hp, rfl⟩
  · exact expiry_eq_next.mpr (.inl ⟨hp, sensingExpiry_replays hs ht bytes⟩)
  · have hjam := update_replays (f := enterJamming) (fun _ _ _ => rfl) s bytes
    exact expiry_eq_next.mpr (.inr (.inl ⟨hp, hjam.symm⟩))
  · have hs' : Unsupplied (emit (.txen false) { s with txen := false }) := { hs with }
    have hreplay := enterBackoff_replays hs' ht bytes
    rw [answerRecord_congr hs hs' rfl] at hreplay
    exact expiry_eq_next.mpr (.inr (.inr (.inl ⟨hp, hreplay⟩)))
  · have hsense := update_replays (f := enterSensing) (fun _ _ _ => rfl) s bytes
    exact expiry_eq_next.mpr (.inr (.inr (.inr (.inl ⟨hp, hsense.symm⟩))))
  · have hdrop := update_replays (fun bytes asked s => takeError_withBoundary bytes asked s .malformedFrame) s bytes
    exact expiry_eq_next.mpr (.inr (.inr (.inr (.inr ⟨hp, hdrop.symm⟩))))

theorem tickElapses_replays (hs : Unsupplied s) (ht : tickElapses P s = .next t) : Replays (tickElapses P) s t := by
  intro bytes
  rcases tickElapses_eq_next.mp ht with ⟨hzero, rfl⟩ | ⟨hone, hexpiry⟩ | ⟨hmore, rfl⟩
  · have hrest := update_replays (f := id) (fun _ _ _ => rfl) t bytes
    exact tickElapses_eq_next.mpr (.inl ⟨hzero, hrest.symm⟩)
  · have hs' : Unsupplied { s with timer := 0 } := { hs with }
    have hreplay := expiry_replays hs' hexpiry bytes
    rw [answerRecord_congr hs hs' rfl] at hreplay
    exact tickElapses_eq_next.mpr (.inr (.inl ⟨hone, hreplay⟩))
  · have hcount := update_replays (f := fun s => { s with timer := s.timer - 1 }) (fun _ _ _ => rfl) s bytes
    exact tickElapses_eq_next.mpr (.inr (.inr ⟨hmore, hcount.symm⟩))

/-! ### Trace entries (30_encoding.md R97) -/

theorem traceEntry_of_toBlock {i : Instr} (hdir : i.dir = .toBlock) (s t : State) :
    traceEntry i s t = encode i ++ returnBytes i t ++ answerRecord s t ++ outputRecords (emitted s t) := by
  rw [traceEntry, hdir]

theorem skipReports_of_toBlock {i : Instr} (hdir : i.dir = .toBlock) (s t : State) :
    skipReports i s t = skipBytes (returnBytes i t ++ outputRecords (emitted s t)) t := if_pos hdir

/-- An operation returns a value, or asks a question, or neither; it takes its answer from the record after the return
value and leaves the return value for the step to pass over. -/
theorem execFor_replays {i : Instr} (hs : Unsupplied s) (ht : execFor P i s = .next t) (bytes : List Byte) :
    execFor P i { s with input := returnBytes i t ++ answerRecord s t ++ bytes } =
      .next { t with input := returnBytes i t ++ bytes } := by
  by_cases hi : i = .tick
  · subst hi
    exact tickElapses_replays hs ht bytes
  · have hnone := asksNothing_execFor P hi
    rw [answerRecord_of_asked_eq (hnone.asked_eq ht), List.append_nil]
    exact hnone.withInput ht _

end

end Machine

/-- Settles O59: the operation is decoded from its record and takes its answer from the next; what it leaves begins with
the reports of its own step. -/
theorem aTraceIsReadBackEntryByEntry : Obligations.ATraceIsReadBackEntryByEntry := by
  intro P i s t rest hwf hdir hinput hline hrandom ht
  have hs : Unsupplied s := ⟨hinput, hline, hrandom⟩
  have hdecode : decode (traceEntry i s t ++ rest) =
      .record i (returnBytes i t ++ answerRecord s t ++ (outputRecords (emitted s t) ++ rest)) := by
    rw [traceEntry_of_toBlock hdir]
    simp only [List.append_assoc]
    exact decode_encode_append _ hwf
  have hexec := execFor_replays hs ht (outputRecords (emitted s t) ++ rest)
  constructor
  · rw [traceStepFor_of_record P hdecode]
    simp only [hexec, andThen_next, skipReports_of_toBlock hdir]
    exact congrArg Host.Outcome.next (skipBytes_of_append (List.append_assoc _ _ _).symm)
  · intro hnone
    rw [hnone, List.nil_append] at hdecode hexec
    rw [stepFor_of_record P hdecode]
    simp only [hexec, andThen_next, skipOutputs_of_toBlock hdir]
    exact congrArg Host.Outcome.next (skipBytes_of_append rfl)

end Sys2Proof

/-!
SUPPORT. The family 40_frame_codec.md: the round trips and the size of stuffed sequences (R112, R114, R118), what each of
the four checks of `Decode` answers (R117), and what the default checksum detects and what it does not (R111, R119).
-/

namespace Sys2Proof

open Machine

/-! ### Round trips (R114, R118) -/

/-- Settles O9: the body unstuffs to the raw frame, which passes the four checks. -/
theorem decodingAnEncodedFrameGivesItBack : Obligations.DecodingAnEncodedFrameGivesItBack :=
  fun _ _ dst src _ hfits => ⟨_, encodeFrame_of_le dst src hfits, delim_notMem_stuffEncode _,
    decodeFrame_stuffEncode_rawFrame dst src hfits⟩

/-- Settles O6: `StuffEncode` writes a body of the block table, and `StuffDecode` reads the table. -/
theorem unstuffingAStuffedSequenceGivesItBack : Obligations.UnstuffingAStuffedSequenceGivesItBack :=
  stuffDecode_stuffEncode

/-! ### Sizes of stuffed sequences (30_encoding.md R84, R112) -/

/-- Each block has a code byte and implies at most one zero, the last block none. -/
theorem Unstuffed.length_lt {body d : List Byte} (h : Unstuffed body d) (hbody : body ≠ []) :
    d.length < body.length := by
  induction h with
  | empty => exact absurd rfl hbody
  | last => exact Nat.lt_succ_self _
  | zero c data rest out _ _ _ hrest _ ih =>
    have := ih hrest
    simp only [List.length_append, List.length_cons]
    omega
  | full data rest out _ _ hrest _ ih =>
    have := ih hrest
    simp only [List.length_append, List.length_cons]
    omega

namespace Machine

theorem length_lt_stuffEncode_length (d : List Byte) : d.length < (stuffEncode d).length :=
  (stuffDecode_eq_some_iff.mp (stuffDecode_stuffEncode d)).length_lt (stuffEncode_ne_nil d)

/-- Without a zero byte only full blocks end early, one for every 254 bytes. -/
theorem stuffLoop_length_of_zero_notMem {d blk : List Byte} (hblk : blk.length < 254) (hd : 0#8 ∉ d) :
    (stuffLoop blk d).length = stuffMax (blk.length + d.length) := by
  induction d generalizing blk with
  | nil =>
    simp only [stuffLoop, stuffBlock, stuffMax, List.length_cons, List.length_nil]
    omega
  | cons b d ih =>
    obtain ⟨hb, hd⟩ := not_or.mp (List.mem_cons.not.mp hd)
    simp only [stuffLoop, if_neg (Ne.symm hb)]
    split_ifs with hfull
    · have hnil := ih (blk := []) (by simp) hd
      simp only [List.length_append, List.length_cons, List.length_nil, stuffBlock, stuffMax] at hfull hnil ⊢
      omega
    · have hrest := ih (blk := blk ++ [b]) (by simp at hfull ⊢; omega) hd
      simp only [List.length_append, List.length_cons, List.length_nil] at hrest ⊢
      rwa [Nat.add_right_comm, Nat.add_assoc] at hrest

theorem stuffEncode_length_of_zero_notMem {d : List Byte} (hd : 0#8 ∉ d) :
    (stuffEncode d).length = stuffMax d.length := by
  simpa [stuffEncode] using stuffLoop_length_of_zero_notMem (blk := []) (by simp) hd

end Machine

/-- Settles O7: the lower bound by induction on the blocks of the table, the others on the data. -/
theorem stuffedSequencesHoldNoDelimiterAndFitTheirBound :
    Obligations.StuffedSequencesHoldNoDelimiterAndFitTheirBound :=
  fun d => ⟨delim_notMem_stuffEncode d, length_lt_stuffEncode_length d, stuffEncode_length_le d,
    stuffEncode_length_of_zero_notMem⟩

/-! ### The checks of `Decode` (R117) -/

namespace Machine

/-- Two bytes in a 16-bit value, as R117 writes it, are the two bytes side by side. -/
theorem shiftLeft_setWidth_or_setWidth (hi lo : Byte) : hi.setWidth 16 <<< 8 ||| lo.setWidth 16 = hi ++ lo := by
  rw [← BitVec.setWidth_append_eq_shiftLeft_setWidth_or, BitVec.setWidth_eq]

theorem shiftLeft_setWidth (b : Byte) : b.setWidth 16 <<< 8 = b ++ 0#8 := by
  rw [← shiftLeft_setWidth_or_setWidth, BitVec.setWidth_zero, BitVec.or_zero]

theorem checksumBytes_append (hi lo : Byte) : checksumBytes (hi ++ lo) = [hi, lo] := by
  rw [checksumBytes, BitVec.extractLsb'_append_eq_left, BitVec.extractLsb'_append_eq_right]

theorem exists_append_eq (chk : Half) : ∃ hi lo : Byte, chk = hi ++ lo :=
  ⟨_, _, (BitVec.extractLsb'_append_extractLsb' (w := 8) (len := 8)).symm⟩

theorem checksumBytes_injective : Function.Injective checksumBytes := by
  intro x y h
  obtain ⟨hi, lo, rfl⟩ := exists_append_eq x
  obtain ⟨hi', lo', rfl⟩ := exists_append_eq y
  rw [checksumBytes_append, checksumBytes_append] at h
  cases h
  rfl

/-- The two checksum bytes, high byte first, are those of exactly one value (20_memory.md R64). -/
theorem checksumBytes_eq_iff {chk : Half} {hi lo : Byte} :
    checksumBytes chk = [hi, lo] ↔ chk = hi.setWidth 16 <<< 8 ||| lo.setWidth 16 := by
  rw [shiftLeft_setWidth_or_setWidth, ← checksumBytes_append, checksumBytes_injective.eq_iff]

section

variable {checksum : List Byte → Half} {maxPayload : Half} {raw m tail : List Byte} {f : Frame}

theorem decodeRaw_of_length (h : raw.length < 4 ∨ maxPayload.toNat + 4 < raw.length) :
    decodeRaw checksum maxPayload raw = .malformedFrame := by
  by_cases hshort : raw.length < 4
  · exact if_pos hshort
  · rw [decodeRaw, if_neg hshort, if_pos (by omega)]

theorem decodeRaw_append_of_ne (hm : 2 ≤ m.length) (hfits : m.length ≤ maxPayload.toNat + 2) (htail : tail.length = 2)
    (hne : checksumBytes (checksum m) ≠ tail) : decodeRaw checksum maxPayload (m ++ tail) = .checksumMismatch := by
  have hlen : (m ++ tail).length = m.length + 2 := by rw [List.length_append, htail]
  have hbody : (m ++ tail).length - 2 = m.length := by omega
  rw [decodeRaw, if_neg (by omega), if_neg (by omega), hbody, List.take_left, List.drop_left, if_pos hne]

/-- What passes the four checks is the raw frame of a payload within the limit. -/
theorem rawFrame_of_decodeRaw (h : decodeRaw checksum maxPayload raw = .frame f) :
    raw = rawFrame checksum f.destination f.source f.payload ∧ f.payload.length ≤ maxPayload.toNat := by
  unfold decodeRaw at h
  split_ifs at h with hshort hlong hsum
  split at h
  · next dst src payload htake =>
    cases h
    have hlen := congrArg List.length htake
    rw [List.length_take, List.length_cons, List.length_cons] at hlen
    rw [htake, not_not] at hsum
    refine ⟨?_, by dsimp only; omega⟩
    rw [rawFrame, hsum, ← htake, List.take_append_drop]
  · cases h

theorem decodeFrame_of_stuffDecode_eq_none {body : List Byte} (h : stuffDecode body = none) :
    decodeFrame checksum maxPayload body = .malformedFrame := by
  rw [decodeFrame, h]

theorem decodeFrame_of_stuffDecode_eq_some {body : List Byte} (h : stuffDecode body = some raw) :
    decodeFrame checksum maxPayload body = decodeRaw checksum maxPayload raw := by
  rw [decodeFrame, h]

end

end Machine

/-- Settles O10: the first check by what `StuffDecode` answers, the others on the unstuffed bytes. -/
theorem decodeMakesItsFourChecksInOrder : Obligations.DecodeMakesItsFourChecksInOrder := by
  refine fun checksum maxPayload body => ⟨decodeFrame_of_stuffDecode_eq_none, fun d hd hlen => ?_,
    fun dst src payload hi lo hd hfits => ⟨fun hne => ?_, fun heq => ?_⟩⟩
  · rw [decodeFrame_of_stuffDecode_eq_some hd, decodeRaw_of_length hlen]
  · rw [decodeFrame_of_stuffDecode_eq_some hd]
    exact decodeRaw_append_of_ne (by simp) (by simpa using hfits) rfl (checksumBytes_eq_iff.not.mpr hne)
  · rw [decodeFrame_of_stuffDecode_eq_some hd, ← checksumBytes_eq_iff.mpr heq]
    exact decodeRaw_rawFrame dst src hfits

/-! ### The default checksum (R111) -/

namespace Machine

theorem crcByte_eq_iterate (crc : Half) (b : Byte) : crcByte crc b = crcBit^[8] (crc ^^^ b.setWidth 16 <<< 8) := rfl

theorem checksum16_append (m n : List Byte) : checksum16 (m ++ n) = n.foldl crcByte (checksum16 m) :=
  List.foldl_append

/-! #### No error in one byte is lost (R119) -/

/-- The polynomial has the lowest bit set, so a round leaves there the bit that it shifts out. -/
theorem getLsbD_zero_crcBit (crc : Half) : (crcBit crc).getLsbD 0 = crc.msb := by
  unfold crcBit
  split_ifs with h <;> simp [h]

/-- The bit shifted out is still to be seen, and with it whether the polynomial was added. -/
theorem crcBit_injective : Function.Injective crcBit := by
  intro x y h
  have hmsb : x.msb = y.msb := by rw [← getLsbD_zero_crcBit, h, getLsbD_zero_crcBit]
  have hshift : x <<< 1 = y <<< 1 := by
    unfold crcBit at h
    rw [hmsb] at h
    split_ifs at h
    · exact (BitVec.xor_left_inj _).mp h
    · exact h
  rw [BitVec.msb_eq_decide, BitVec.msb_eq_decide, decide_eq_decide] at hmsb
  have hnat := congrArg BitVec.toNat hshift
  rw [BitVec.toNat_shiftLeft, BitVec.toNat_shiftLeft] at hnat
  exact BitVec.eq_of_toNat_eq (by omega)

theorem crcByte_left_injective (b : Byte) : Function.Injective (crcByte · b) := fun _ _ h =>
  (BitVec.xor_left_inj _).mp (crcBit_injective.iterate 8 h)

theorem crcByte_right_injective (crc : Half) : Function.Injective (crcByte crc) := by
  intro b b' h
  have hshift := (BitVec.xor_right_inj _).mp (crcBit_injective.iterate 8 h)
  rw [shiftLeft_setWidth, shiftLeft_setWidth] at hshift
  exact (BitVec.append_left_inj _).mp hshift

/-- Each byte of the message is a one-to-one step of the checksum, so a difference made by one byte stays. -/
theorem foldl_crcByte_injective (m : List Byte) : Function.Injective (m.foldl crcByte) := by
  induction m with
  | nil => exact fun _ _ h => h
  | cons b m ih => exact ih.comp (crcByte_left_injective b)

theorem checksum16_set_ne {m : List Byte} {k : Nat} {b b' : Byte} (hbyte : m[k]? = some b) (hb : b' ≠ b) :
    checksum16 (m.set k b') ≠ checksum16 m := by
  obtain ⟨hk, rfl⟩ := List.getElem?_eq_some_iff.mp hbyte
  obtain ⟨before, after, hm, -, hset⟩ := List.exists_of_set (a' := b') hk
  intro h
  rw [hset, checksum16_append] at h
  rw [hm, checksum16_append] at h
  exact hb (crcByte_right_injective _ (foldl_crcByte_injective after h))

/-- A raw frame that decodes no longer does with another byte in one place: in the message it changes the recomputed
checksum, behind it the one that this is compared with. -/
theorem decodeRaw_set_of_ne {maxPayload : Half} {raw : List Byte} {f : Frame} {k : Nat} {b b' : Byte}
    (h : decodeRaw checksum16 maxPayload raw = .frame f) (hbyte : raw[k]? = some b) (hb : b' ≠ b) :
    decodeRaw checksum16 maxPayload (raw.set k b') = .checksumMismatch := by
  obtain ⟨rfl, hfits⟩ := rawFrame_of_decodeRaw h
  rw [rawFrame] at hbyte ⊢
  rw [List.set_append]
  split_ifs with hmessage
  · rw [List.getElem?_append_left hmessage] at hbyte
    exact decodeRaw_append_of_ne (by simp) (by simpa using hfits) rfl
      (checksumBytes_injective.ne (checksum16_set_ne hbyte hb))
  · rw [List.getElem?_append_right (Nat.le_of_not_lt hmessage)] at hbyte
    refine decodeRaw_append_of_ne (by simp) (by simpa using hfits) (by simp [checksumBytes]) fun hsame => hb ?_
    have hset := List.getElem?_set_self (a := b') (List.getElem?_eq_some_iff.mp hbyte).1
    rw [← hsame, hbyte] at hset
    exact (Option.some.inj hset).symm

theorem xor_bit_ne {bit : Nat} (hbit : bit < 8) (b : Byte) : b ^^^ (1#8 <<< bit) ≠ b := by
  have hone : ∀ i < 8, 1#8 <<< i ≠ 0#8 := by decide
  intro h
  have hzero : b ^^^ (1#8 <<< bit) = b ^^^ 0#8 := by rw [h, BitVec.xor_zero]
  exact hone bit hbit ((BitVec.xor_right_inj b).mp hzero)

end Machine

/-- Settles O11: a byte with one bit flipped is another byte. -/
theorem everySingleBitErrorOfARawFrameIsDetected : Obligations.EverySingleBitErrorOfARawFrameIsDetected := by
  intro maxPayload raw f k bit b hframe hbyte hbit
  exact decodeRaw_set_of_ne hframe hbyte (xor_bit_ne hbit b)

namespace Machine

/-! #### A trailing zero byte is lost (70_reset_and_hazards.md R302) -/

theorem crcBit_of_lt {crc : Half} (h : crc.toNat < 2 ^ 15) : crcBit crc = crc <<< 1 := by
  have hmsb : crc.msb = false := BitVec.msb_eq_false_iff_two_mul_lt.mpr (by omega)
  rw [crcBit, hmsb, if_neg Bool.false_ne_true]

/-- Rounds that shift out zeros only are a shift. -/
theorem crcBit_iterate_of_lt {crc : Half} {n : Nat} (h : crc.toNat * 2 ^ n < 2 ^ 16) : crcBit^[n] crc = crc <<< n := by
  induction n with
  | zero => exact (BitVec.shiftLeft_zero crc).symm
  | succ n ih =>
    rw [pow_succ, ← Nat.mul_assoc] at h
    have hn : crc.toNat * 2 ^ n < 2 ^ 15 := by omega
    have hshift : (crc <<< n).toNat < 2 ^ 15 := by
      rw [BitVec.toNat_shiftLeft, Nat.shiftLeft_eq]
      exact (Nat.mod_le _ _).trans_lt hn
    rw [Function.iterate_succ_apply', ih (by omega), crcBit_of_lt hshift, BitVec.shiftLeft_add]

/-- Fed back, the high byte of the checksum cancels out and the low byte moves up. -/
theorem crcByte_append (hi lo : Byte) : crcByte (hi ++ lo) hi = lo ++ 0#8 := by
  have hcancel : (hi ++ lo) ^^^ hi.setWidth 16 <<< 8 = lo.setWidth 16 := by
    rw [shiftLeft_setWidth, BitVec.xor_append, BitVec.xor_self, BitVec.xor_zero, ← shiftLeft_setWidth_or_setWidth]
    simp
  have hlt := lo.isLt
  rw [crcByte_eq_iterate, hcancel, crcBit_iterate_of_lt, shiftLeft_setWidth]
  rw [BitVec.toNat_setWidth]
  omega

theorem rawFrame_append_highByte {dst src : Byte} {payload : List Byte} {hi lo : Byte}
    (h : checksum16 (dst :: src :: payload) = hi ++ lo) :
    rawFrame checksum16 dst src (payload ++ [hi]) = dst :: src :: payload ++ [hi, lo, 0] := by
  have hsum : checksum16 (dst :: src :: (payload ++ [hi])) = lo ++ 0#8 := by
    rw [← List.cons_append, ← List.cons_append, checksum16_append, h]
    exact crcByte_append hi lo
  rw [rawFrame, hsum, checksumBytes_append]
  simp

end Machine

/-- Settles O12: the longer bytes are the raw frame of the longer payload. -/
theorem aTrailingZeroByteIsNotDetected : Obligations.ATrailingZeroByteIsNotDetected := by
  intro maxPayload dst src payload hi lo hfits hframe
  obtain ⟨hraw, _⟩ := rawFrame_of_decodeRaw hframe
  have hsum := checksumBytes_eq_iff.mp (List.append_cancel_left hraw).symm
  rw [shiftLeft_setWidth_or_setWidth] at hsum
  rw [← rawFrame_append_highByte hsum]
  exact decodeRaw_rawFrame dst src (by simpa using hfits)

end Sys2Proof

/-!
SUPPORT. The family 41_addressing.md: only a decoded frame that `Accepts` lets through is delivered, at its delimiter in
`Receiving` (R141, R142). Every procedure but the end of a body is shown to emit no delivery (`NoDelivery`).
-/

namespace Sys2Proof

open Machine

/-- From `s` to `t` outputs were added at most, and none of them is an `RXDELIVER`. -/
def NoDelivery (s t : State) : Prop :=
  ∃ os, t.out = s.out ++ os ∧ ∀ src len payload, .rxdeliver src len payload ∉ os

namespace NoDelivery

variable {s t u : State}

theorem of_out_eq (h : t.out = s.out) : NoDelivery s t := ⟨[], by simp [h], by simp⟩

theorem trans (h : NoDelivery s t) (h' : NoDelivery t u) : NoDelivery s u := by
  obtain ⟨os, hos, hnone⟩ := h
  obtain ⟨os', hos', hnone'⟩ := h'
  exact ⟨os ++ os', by rw [hos', hos, List.append_assoc], by simp [hnone, hnone']⟩

theorem notMem_emitted (h : NoDelivery s t) (src : Byte) (len : Half) (payload : List Byte) :
    .rxdeliver src len payload ∉ emitted s t := by
  obtain ⟨os, hos, hnone⟩ := h
  rw [emitted, hos, List.drop_left]
  exact hnone src len payload

end NoDelivery

namespace Machine

/-! ### Procedures that deliver nothing -/

theorem noDelivery_completeSend (status : Byte) (s : State) : NoDelivery s (completeSend status s) :=
  ⟨_, completeSend_out status s, by simp⟩

/-- An error is reported by a drop, by the end of a send, or by a return value (60_exceptions.md R250). -/
theorem noDelivery_takeError (e : Error) (s : State) : NoDelivery s (takeError e s) := by
  cases e with
  | payloadTooLarge | refused | misconfiguredTiming => exact .of_out_eq rfl
  | checksumMismatch | malformedFrame | notAddressed => exact ⟨_, enterIdle_out _, by simp⟩
  | collisionRetriesExhausted => exact noDelivery_completeSend _ s

theorem noDelivery_backoffAfterDraw (delay : Nat) (s : State) : NoDelivery s (backoffAfterDraw delay s) := by
  rw [backoffAfterDraw_eq]
  split_ifs
  · exact noDelivery_takeError .collisionRetriesExhausted { s with retry := s.retry + 1 }
  · exact .of_out_eq rfl
  · exact .of_out_eq rfl

theorem noDelivery_resetBlock (s : State) : NoDelivery s (resetBlock s) := by
  rw [resetBlock_eq]
  by_cases htxen : s.txen = true
  · exact ⟨[.txen false], if_pos htxen, by simp⟩
  · exact .of_out_eq (if_neg htxen)

theorem noDelivery_writeConfig (idx : Byte) (val : Word) (s : State) : NoDelivery s (writeConfig idx val s) := by
  unfold writeConfig
  split_ifs
  · exact .of_out_eq rfl
  · obtain ⟨c, hc⟩ := writeReg_exists idx val s
    exact .of_out_eq (by rw [hc]; rfl)

theorem noDelivery_initialise (P : Params) (s : State) : NoDelivery s (initialise P s) := by
  unfold initialise
  split_ifs
  · exact noDelivery_takeError _ s
  · exact noDelivery_takeError _ s
  · exact .of_out_eq (enterIdle_out _)

theorem noDelivery_cancelSend (s : State) : NoDelivery s (cancelSend s) := by
  unfold cancelSend
  split_ifs <;> exact .of_out_eq rfl

section

variable {P : Params} {s t : State}

theorem noDelivery_of_requestSend {dst : Byte} {len : Half} {payload : List Byte}
    (ht : requestSend P dst len payload s = .next t) : NoDelivery s t := by
  rcases requestSend_next ht with ⟨_, rfl⟩ | ⟨_, _, _, rfl⟩ | ⟨_, _, _, _, rfl⟩ <;> exact .of_out_eq rfl

/-- A node does not receive its own frames: the echo is compared and not stored (R145, 43_mac.md R188). -/
theorem noDelivery_of_echoByte {b : Byte} (ht : echoByte b s = .next t) : NoDelivery s t := by
  obtain ⟨_, _, ⟨_, _, rfl⟩ | ⟨_, _, w, _, rfl⟩ | ⟨_, rfl⟩⟩ := echoByte_eq_next.mp ht
  · have hrelease : NoDelivery s (emit (.txen false) { s with idx := s.idx + 1, txen := false }) :=
      ⟨[.txen false], rfl, by simp⟩
    exact hrelease.trans (noDelivery_completeSend okCode _)
  · exact ⟨[.write w], rfl, by simp⟩
  · exact ⟨[.write delim], rfl, by simp⟩

theorem noDelivery_of_sensingExpiry (ht : sensingExpiry P s = .next t) : NoDelivery s t := by
  obtain ⟨_, u, hu, hends⟩ := sensingExpiry_eq_next.mp ht
  have hasked : NoDelivery s u := .of_out_eq ((congrArg State.out (lineIdleAnswered_eq hu)).trans rfl)
  rcases hends with ⟨_, rfl⟩ | ⟨_, _, hbegin⟩ | ⟨_, _, rfl⟩
  · exact hasked
  · obtain ⟨b, _, _, _, _, rfl⟩ := beginTransmit_eq_next.mp hbegin
    exact hasked.trans ⟨[.txen true, .write b], rfl, by simp⟩
  · exact hasked

theorem noDelivery_of_jammingExpiry (ht : jammingExpiry s = .next t) : NoDelivery s t := by
  obtain ⟨_, _, x, u, hu, rfl⟩ := enterBackoff_eq_next.mp ht
  have hreleased : NoDelivery s u :=
    ⟨[.txen false], (congrArg State.out (randomAnswered_eq hu)).trans rfl, by simp⟩
  exact hreleased.trans (noDelivery_backoffAfterDraw _ u)

theorem noDelivery_of_expiry (ht : expiry P s = .next t) : NoDelivery s t := by
  rcases expiry_eq_next.mp ht with ⟨_, ht⟩ | ⟨_, rfl⟩ | ⟨_, ht⟩ | ⟨_, rfl⟩ | ⟨_, rfl⟩
  · exact noDelivery_of_sensingExpiry ht
  · exact ⟨[.write delim], rfl, by simp⟩
  · exact noDelivery_of_jammingExpiry ht
  · exact .of_out_eq rfl
  · exact noDelivery_takeError .malformedFrame s

/-- The end of a body by time-out is a drop (R202), so no tick delivers. -/
theorem noDelivery_of_tickElapses (ht : tickElapses P s = .next t) : NoDelivery s t := by
  rcases tickElapses_eq_next.mp ht with ⟨_, rfl⟩ | ⟨_, hexpiry⟩ | ⟨_, rfl⟩
  · exact .of_out_eq rfl
  · exact noDelivery_of_expiry (s := { s with timer := 0 }) hexpiry
  · exact .of_out_eq rfl

/-- Operation by operation: of those toward the block, `BYTE` alone can deliver. -/
theorem noDelivery_of_execFor {i : Instr} (hdir : i.dir = .toBlock) (hbyte : ∀ b, i ≠ .byte b)
    (ht : execFor P i s = .next t) : NoDelivery s t := by
  cases i with
  | byte b => exact absurd rfl (hbyte b)
  | lineidle | random | txen | write | senddone | rxdeliver | drop => cases hdir
  | send => exact noDelivery_of_requestSend ht
  | tick => exact noDelivery_of_tickElapses ht
  | reset =>
    cases ht
    exact noDelivery_resetBlock s
  | cfgwr idx val =>
    cases ht
    exact noDelivery_writeConfig idx val s
  | rdreg =>
    cases ht
    exact .of_out_eq rfl
  | init =>
    cases ht
    exact noDelivery_initialise P s
  | cancel =>
    cases ht
    exact noDelivery_cancelSend s

end

/-! ### The end of a body (R141, R142, 43_mac.md R201) -/

/-- The body in `BUF` decodes to a frame from `src` with that payload, addressed to the node or to broadcast, and `len`
is the length of the payload. -/
def AcceptedBody (P : Params) (s : State) (src : Byte) (len : Half) (payload : List Byte) : Prop :=
  ∃ body d, bufBytes s = some body ∧ decodeFrame P.checksum s.maxPayload body = .frame ⟨d, src, payload⟩ ∧
    (d = s.localAddr ∨ d = s.bcastAddr) ∧ len = BitVec.ofNat 16 payload.length

section

variable {P : Params} {s t : State} {src : Byte} {len : Half} {payload : List Byte}

/-- The output of a delivery names the source and the payload of a frame that passes the filter. -/
theorem frame_of_mem_emitted_deliver {r : DecodeResult}
    (hmem : .rxdeliver src len payload ∈ emitted s (deliver s r)) :
    ∃ d, r = .frame ⟨d, src, payload⟩ ∧ (d = s.localAddr ∨ d = s.bcastAddr) ∧
      len = BitVec.ofNat 16 payload.length := by
  cases r with
  | frame f =>
    rw [deliver_frame, emitted, enterIdle_out, emit_out, List.drop_left, List.mem_singleton, frameOutput] at hmem
    split_ifs at hmem with haccepts
    cases hmem
    exact ⟨f.destination, rfl, haccepts, rfl⟩
  | checksumMismatch => exact absurd hmem ((noDelivery_takeError .checksumMismatch s).notMem_emitted _ _ _)
  | malformedFrame => exact absurd hmem ((noDelivery_takeError .malformedFrame s).notMem_emitted _ _ _)

theorem accepted_of_mem_emitted_rxByte {b : Byte} (ht : rxByte P b s = .next t)
    (hmem : .rxdeliver src len payload ∈ emitted s t) :
    b = delim ∧ s.rxOvf = false ∧ AcceptedBody P s src len payload := by
  unfold rxByte at ht
  split_ifs at ht with hdelim
  · rcases rxComplete_eq_next.mp ht with ⟨_, rfl⟩ | ⟨hovf, body, hbody, rfl⟩
    · exact absurd hmem ((noDelivery_takeError .malformedFrame s).notMem_emitted _ _ _)
    · obtain ⟨d, hframe, haddr, hlen⟩ := frame_of_mem_emitted_deliver hmem
      exact ⟨hdelim, hovf, body, d, hbody, hframe, haddr, hlen⟩
  · have hnone : NoDelivery s t := by
      rcases rxStore_eq_next.mp ht with ⟨_, _, rfl⟩ | ⟨_, rfl⟩ <;> exact .of_out_eq rfl
    exact absurd hmem (hnone.notMem_emitted _ _ _)

/-- A delimiter that arrives while listening ends an empty body, which is no frame (40_frame_codec.md R113). -/
theorem not_acceptedBody_enterReceiving : ¬AcceptedBody P (enterReceiving s) src len payload := by
  rintro ⟨body, d, hbody, hframe, _⟩
  obtain rfl : [] = body := Option.some.inj hbody
  cases hframe

/-- `BYTE`, phase by phase (43_mac.md R177): a delivery is one of `Receiving`. -/
theorem accepted_of_mem_emitted_byteArrives {b : Byte} (ht : byteArrives P b s = .next t)
    (hmem : .rxdeliver src len payload ∈ emitted s t) :
    b = delim ∧ s.phase = .receiving ∧ s.rxOvf = false ∧ AcceptedBody P s src len payload := by
  have hnot (hnone : NoDelivery s t) : False := hnone.notMem_emitted _ _ _ hmem
  unfold byteArrives at ht
  split_ifs at ht
  · cases ht
    exact (hnot (.of_out_eq rfl)).elim
  · cases hp : s.phase <;> rw [hp] at ht
    case idle => cases ht
    case sensingCarrier =>
      obtain ⟨_, _, hbody⟩ := accepted_of_mem_emitted_rxByte ht hmem
      exact absurd hbody not_acceptedBody_enterReceiving
    case transmitting => exact (hnot (noDelivery_of_echoByte ht)).elim
    case jamming =>
      cases ht
      exact (hnot ⟨[.write delim], rfl, by simp⟩).elim
    case backingOff =>
      cases ht
      exact (hnot (.of_out_eq rfl)).elim
    case receiving =>
      obtain ⟨hdelim, hovf, hbody⟩ := accepted_of_mem_emitted_rxByte ht hmem
      exact ⟨hdelim, rfl, hovf, hbody⟩

end

end Machine

/-- Settles O50: a delivering operation is a `BYTE`, since no other one delivers, and it ends an accepted body. -/
theorem onlyAcceptedFramesAreDelivered : Obligations.OnlyAcceptedFramesAreDelivered := by
  intro i s t src len payload hdir ht hmem
  rw [exec_eq_execFor] at ht
  by_cases hbyte : ∃ b, i = .byte b
  · obtain ⟨b, rfl⟩ := hbyte
    obtain ⟨rfl, hp, hovf, hbody⟩ := accepted_of_mem_emitted_byteArrives ht hmem
    exact ⟨rfl, hp, hovf, hbody⟩
  · exact absurd hmem ((noDelivery_of_execFor hdir (not_exists.mp hbyte) ht).notMem_emitted _ _ _)

end Sys2Proof

/-!
SUPPORT. The family 42_timing_config.md: `CFGWR` and `RDREG` (R150, R151), validation and `INIT` (R152, R153), and the
lock on the configuration (R155). For the lock stands first what an event writes at most (`SessionOnly`): what a frame,
the timer and the collaborators need, and no register of the configuration.
-/

namespace Sys2Proof

open Machine

namespace Machine

/-! ### What an event writes at most (43_mac.md R177, R178) -/

/-- `s` with the session of `u`: the phase and its flags, the timer, the retry count, `BUF`, and what stands between the
block and its collaborators. -/
def withSession (u s : State) : State :=
  { s with
    phase := u.phase, idx := u.idx, sendPending := u.sendPending, rxOvf := u.rxOvf, txen := u.txen, timer := u.timer,
    retry := u.retry, buf := u.buf, bufLen := u.bufLen, input := u.input, lineIdleAns := u.lineIdleAns,
    randomAns := u.randomAns, asked := u.asked, out := u.out }

/-- From `s` to `t` the session changed at most: not the configuration and its bits, the operands of the request, or the
return value. -/
def SessionOnly (s t : State) : Prop := t = withSession t s

theorem SessionOnly.trans {s t u : State} (h : SessionOnly s t) (h' : SessionOnly t u) : SessionOnly s u :=
  calc u = withSession u t := h'
    _ = withSession u (withSession t s) := congrArg (withSession u) h

/-- A view that no session can change reads alike. -/
theorem SessionOnly.view_eq {s t : State} (h : SessionOnly s t) {α : Type} (view : State → α)
    (hview : ∀ u, view (withSession u s) = view s) : view t = view s :=
  (congrArg view h).trans (hview t)

theorem sessionOnly_enterIdle (s : State) : SessionOnly s (enterIdle s) := by
  cases hrun : running s with
  | true => rw [enterIdle_of_running hrun]; rfl
  | false => rw [enterIdle_of_not_running hrun]; rfl

/-- The end of a reception and the end of a send: an output, then `EnterIdle`. -/
theorem sessionOnly_enterIdle_emit (o : Output) (s : State) : SessionOnly s (enterIdle (emit o s)) :=
  SessionOnly.trans (t := emit o s) rfl (sessionOnly_enterIdle _)

theorem sessionOnly_completeSend (status : Byte) (s : State) : SessionOnly s (completeSend status s) :=
  SessionOnly.trans (t := { s with sendPending := false, retry := 0 }) rfl (sessionOnly_enterIdle_emit _ _)

theorem sessionOnly_deliver (s : State) (r : DecodeResult) : SessionOnly s (deliver s r) := by
  cases r with
  | frame f =>
    rw [deliver_frame]
    exact sessionOnly_enterIdle_emit _ s
  | checksumMismatch | malformedFrame => exact sessionOnly_enterIdle_emit _ s

theorem sessionOnly_backoffAfterDraw (delay : Nat) (s : State) : SessionOnly s (backoffAfterDraw delay s) := by
  rw [backoffAfterDraw_eq]
  split_ifs
  · exact SessionOnly.trans (t := { s with retry := s.retry + 1 }) rfl (sessionOnly_completeSend _ _)
  · rfl
  · rfl

section

variable {P : Params} {s t : State}

theorem sessionOnly_of_rxByte {b : Byte} (ht : rxByte P b s = .next t) : SessionOnly s t := by
  unfold rxByte at ht
  split_ifs at ht
  · rcases rxComplete_eq_next.mp ht with ⟨_, rfl⟩ | ⟨_, body, _, rfl⟩
    · exact sessionOnly_enterIdle_emit _ s
    · exact sessionOnly_deliver s _
  · rcases rxStore_eq_next.mp ht with ⟨_, _, rfl⟩ | ⟨_, rfl⟩ <;> rfl

theorem sessionOnly_of_echoByte {b : Byte} (ht : echoByte b s = .next t) : SessionOnly s t := by
  obtain ⟨_, _, ⟨_, _, rfl⟩ | ⟨_, _, _, _, rfl⟩ | ⟨_, rfl⟩⟩ := echoByte_eq_next.mp ht
  · exact SessionOnly.trans (t := emit (.txen false) { s with idx := s.idx + 1, txen := false }) rfl
      (sessionOnly_completeSend okCode _)
  · rfl
  · rfl

/-- `BYTE`, phase by phase (R177). -/
theorem sessionOnly_of_byteArrives {b : Byte} (ht : byteArrives P b s = .next t) : SessionOnly s t := by
  unfold byteArrives at ht
  split_ifs at ht
  · cases ht
    rfl
  · cases hp : s.phase <;> rw [hp] at ht
    case idle => cases ht
    case sensingCarrier => exact SessionOnly.trans (t := enterReceiving s) rfl (sessionOnly_of_rxByte ht)
    case transmitting => exact sessionOnly_of_echoByte ht
    case jamming | backingOff =>
      cases ht
      rfl
    case receiving => exact sessionOnly_of_rxByte ht

theorem sessionOnly_of_lineIdleAnswered {q : Word} (h : LineIdleAnswered s q t) : SessionOnly s t :=
  (lineIdleAnswered_eq h).trans (by rw [lineIdleAnswered_eq h]; rfl)

theorem sessionOnly_of_sensingExpiry (ht : sensingExpiry P s = .next t) : SessionOnly s t := by
  obtain ⟨_, u, hu, hends⟩ := sensingExpiry_eq_next.mp ht
  have hasked : SessionOnly s u := sessionOnly_of_lineIdleAnswered hu
  rcases hends with ⟨_, rfl⟩ | ⟨_, _, hbegin⟩ | ⟨_, _, rfl⟩
  · exact hasked.trans rfl
  · obtain ⟨_, _, _, _, _, rfl⟩ := beginTransmit_eq_next.mp hbegin
    exact hasked.trans rfl
  · exact hasked

theorem sessionOnly_of_randomAnswered {range x : Nat} (h : RandomAnswered s range x t) : SessionOnly s t :=
  (randomAnswered_eq h).trans (by rw [randomAnswered_eq h]; rfl)

theorem sessionOnly_of_jammingExpiry (ht : jammingExpiry s = .next t) : SessionOnly s t := by
  obtain ⟨_, _, x, u, hu, rfl⟩ := enterBackoff_eq_next.mp ht
  have hreleased : SessionOnly s (emit (.txen false) { s with txen := false }) := rfl
  exact (hreleased.trans (sessionOnly_of_randomAnswered hu)).trans (sessionOnly_backoffAfterDraw _ u)

theorem sessionOnly_of_expiry (ht : expiry P s = .next t) : SessionOnly s t := by
  rcases expiry_eq_next.mp ht with ⟨_, ht⟩ | ⟨_, rfl⟩ | ⟨_, ht⟩ | ⟨_, rfl⟩ | ⟨_, rfl⟩
  · exact sessionOnly_of_sensingExpiry ht
  · rfl
  · exact sessionOnly_of_jammingExpiry ht
  · rfl
  · exact sessionOnly_enterIdle_emit _ s

/-- `TICK` (R178): nothing is timed, the deadline is counted down, or it expires. -/
theorem sessionOnly_of_tickElapses (ht : tickElapses P s = .next t) : SessionOnly s t := by
  rcases tickElapses_eq_next.mp ht with ⟨_, rfl⟩ | ⟨_, hexpiry⟩ | ⟨_, rfl⟩
  · rfl
  · exact SessionOnly.trans (t := { s with timer := 0 }) rfl (sessionOnly_of_expiry hexpiry)
  · rfl

end

/-! ### Locked and unlocked (R150, R152) -/

section

variable {P : Params} {s : State}

theorem writeConfig_of_locked (hlock : s.cfgValid = true ∨ s.fault = true) (idx : Byte) (val : Word) :
    writeConfig idx val s = s :=
  if_pos (by simpa using hlock)

theorem writeConfig_of_unlocked (hvalid : s.cfgValid = false) (hfault : s.fault = false) (idx : Byte) (val : Word) :
    writeConfig idx val s = writeReg idx val s :=
  if_neg (by simp [hvalid, hfault])

/-- The read-only and the reserved indices (30_encoding.md R98). -/
theorem writeReg_of_nine_le {idx : Byte} (h : 9 ≤ idx.toNat) (val : Word) (s : State) : writeReg idx val s = s := by
  obtain ⟨n, hn⟩ := Nat.exists_eq_add_of_le' h
  rw [writeReg, hn]
  rfl

theorem readReg_of_fourteen_le {idx : Byte} (h : 14 ≤ idx.toNat) (s : State) : readReg idx s = 0 := by
  obtain ⟨n, hn⟩ := Nat.exists_eq_add_of_le' h
  rw [readReg, hn]
  rfl

theorem initialise_of_locked (hlock : s.cfgValid = true ∨ s.fault = true) :
    initialise P s = { s with ret := some 0xFF } :=
  if_pos (by simpa using hlock)

theorem initialise_of_invalid (hvalid : s.cfgValid = false) (hfault : s.fault = false)
    (hfail : validateConfig P s ≠ 0#6) :
    initialise P s = { s with cfgErr := validateConfig P s, fault := true, ret := some 5 } := by
  rw [initialise, if_neg (by simp [hvalid, hfault]), if_pos hfail]
  rfl

/-- A valid configuration is locked, and the block runs: `EnterIdle` goes on to listening (43_mac.md R172). -/
theorem initialise_of_valid (hvalid : s.cfgValid = false) (hfault : s.fault = false)
    (hpass : validateConfig P s = 0#6) :
    initialise P s = { s with
      cfgValid := true, phase := .sensingCarrier, timer := s.ifgTicks, bufLen := 0, idx := 0, rxOvf := false,
      ret := some 0 } := by
  have hrun : running { s with cfgValid := true } = true := (running_iff _).mpr ⟨rfl, hfault⟩
  rw [initialise, if_neg (by simp [hvalid, hfault]), if_neg (not_not_intro hpass), enterIdle_of_running hrun]
  rfl

end

/-! ### The lock (R155, 10_state.md R31) -/

/-- What the lock and the fault mode protect: the nine configuration registers, `CFG_VALID`, `FAULT` and `CFG_ERR`. -/
def lockedRegisters (s : State) : Configuration × Bool × Bool × BitVec 6 :=
  (⟨s.bitTicks, s.ifgTicks, s.jamTicks, s.backoffMin, s.backoffMax, s.maxRetries, s.localAddr, s.bcastAddr,
    s.maxPayload⟩, s.cfgValid, s.fault, s.cfgErr)

theorem lockedRegisters_eq_iff {s t : State} :
    lockedRegisters t = lockedRegisters s ↔
      SameConfiguration s t ∧ t.cfgValid = s.cfgValid ∧ t.fault = s.fault ∧ t.cfgErr = s.cfgErr := by
  simp only [lockedRegisters, SameConfiguration, Prod.mk.injEq, Configuration.mk.injEq]

theorem SessionOnly.lockedRegisters_eq {s t : State} (h : SessionOnly s t) : lockedRegisters t = lockedRegisters s :=
  h.view_eq lockedRegisters fun _ => rfl

theorem lockedRegisters_of_requestSend {P : Params} {s t : State} {dst : Byte} {len : Half} {payload : List Byte}
    (ht : requestSend P dst len payload s = .next t) : lockedRegisters t = lockedRegisters s := by
  rcases requestSend_next ht with ⟨_, rfl⟩ | ⟨_, _, _, rfl⟩ | ⟨_, _, _, _, rfl⟩ <;> rfl

theorem lockedRegisters_cancelSend (s : State) : lockedRegisters (cancelSend s) = lockedRegisters s := by
  unfold cancelSend
  split_ifs <;> rfl

/-- Operation by operation: while locked or faulted, `CFGWR` is ignored and `INIT` refused, and beside `RESET` no other
one writes a protected register. -/
theorem lockedRegisters_of_execFor {P : Params} {s t : State} {i : Instr} (hi : i ≠ .reset)
    (hlock : s.cfgValid = true ∨ s.fault = true) (ht : execFor P i s = .next t) :
    lockedRegisters t = lockedRegisters s := by
  cases i with
  | reset => exact absurd rfl hi
  | cfgwr idx val =>
    cases ht
    rw [writeConfig_of_locked hlock]
  | init =>
    cases ht
    rw [initialise_of_locked hlock]
    rfl
  | send => exact lockedRegisters_of_requestSend ht
  | cancel =>
    cases ht
    exact lockedRegisters_cancelSend s
  | byte => exact (sessionOnly_of_byteArrives ht).lockedRegisters_eq
  | tick => exact (sessionOnly_of_tickElapses ht).lockedRegisters_eq
  | rdreg | lineidle | random | txen | write | senddone | rxdeliver | drop =>
    cases ht
    rfl

end Machine

/-- Settles O19: locked or faulted, every operation but `RESET` keeps all of `lockedRegisters`. -/
theorem onlyResetUnlocksTheConfiguration : Obligations.OnlyResetUnlocksTheConfiguration := by
  intro i s t hi ht
  rw [exec_eq_execFor] at ht
  have hkept (hlock : s.cfgValid = true ∨ s.fault = true) :=
    lockedRegisters_eq_iff.mp (lockedRegisters_of_execFor hi hlock ht)
  constructor
  · intro hvalid
    obtain ⟨hconfig, hvalid', _, _⟩ := hkept (.inl hvalid)
    exact ⟨hconfig, hvalid'.trans hvalid⟩
  · intro hfault
    obtain ⟨hconfig, _, hfault', herr⟩ := hkept (.inr hfault)
    exact ⟨hfault'.trans hfault, herr, hconfig⟩

/-! ### Writing and reading registers (R150, R151) -/

/-- Settles O13: unlocked, `CFGWR` is `writeReg`; truncation keeps the low bits. -/
theorem cfgwrStoresTheTruncatedValueOrIsIgnored : Obligations.CfgwrStoresTheTruncatedValueOrIsIgnored := by
  refine fun s val => ⟨fun ⟨hvalid, hfault⟩ => ?_,
    fun hlock idx => congrArg Host.Outcome.next (writeConfig_of_locked hlock idx val)⟩
  have hwrite (idx : Byte) : exec (.cfgwr idx val) s = .next (writeReg idx val s) :=
    congrArg Host.Outcome.next (writeConfig_of_unlocked hvalid hfault idx val)
  have hlow {w : Nat} (hw : w ≤ 32) : val.extractLsb' 0 w = val.setWidth w := (BitVec.setWidth_eq_extractLsb' hw).symm
  rw [hlow (w := 5) (by decide), hlow (w := 8) (by decide), hlow (w := 16) (by decide)]
  refine ⟨hwrite 0, hwrite 1, hwrite 2, hwrite 3, hwrite 4, hwrite 5, hwrite 6, hwrite 7, hwrite 8,
    fun idx hidx => ?_⟩
  rw [hwrite, writeReg_of_nine_le hidx]

namespace Machine

/-! #### The two packed registers (10_state.md R33, 30_encoding.md R98) -/

/-- `IDX` stands above `BUFLEN`. -/
theorem bufPos_eq_append (s : State) : bufPos s = s.idx ++ s.bufLen := by
  rw [bufPos, ← BitVec.setWidth_append_eq_shiftLeft_setWidth_or, BitVec.setWidth_eq]

theorem getLsbD_flagBit (b : Bool) (k : Nat) {i : Nat} (hi : i < 32) :
    (flagBit b k).getLsbD i = (decide (i = k) && b) := by
  rw [flagBit, BitVec.getLsbD_shiftLeft, BitVec.getLsbD_setWidth, BitVec.getLsbD_ofBool]
  grind

/-- `PHASE` takes the three bits its code has, and every flag has a bit of its own. -/
theorem getLsbD_statusWord (s : State) {i : Nat} (hi : i < 32) :
    (statusWord s).getLsbD i =
      ((phaseCode s.phase).getLsbD i || (decide (i = 3) && s.sendPending) || (decide (i = 4) && s.txen) ||
        (decide (i = 5) && timerArmed s) || (decide (i = 6) && s.cfgValid) || (decide (i = 7) && s.fault) ||
        (decide (i = 8) && s.rxOvf)) := by
  simp only [statusWord, BitVec.getLsbD_or, BitVec.getLsbD_setWidth, getLsbD_flagBit _ _ hi, hi, decide_true,
    Bool.true_and]

/-- Bits 2:0 of `STATUS` are `PHASE`. -/
theorem extractLsb'_statusWord_phase (s : State) : (statusWord s).extractLsb' 0 3 = phaseCode s.phase := by
  ext i hi
  rw [BitVec.getElem_extractLsb', getLsbD_statusWord s (by omega)]
  grind

/-- Bits 31:9 of `STATUS` are zero. -/
theorem extractLsb'_statusWord_rest (s : State) : (statusWord s).extractLsb' 9 23 = 0 := by
  ext i hi
  rw [BitVec.getElem_extractLsb', getLsbD_statusWord s (by omega)]
  grind

end Machine

/-- Settles O14: `RDREG` returns `readReg`; `BUFPOS` and `STATUS` are taken apart bit by bit. -/
theorem rdregReturnsTheRegisterAndChangesNothing : Obligations.RdregReturnsTheRegisterAndChangesNothing := by
  intro s
  have hread (idx : Byte) : exec (.rdreg idx) s = .next { s with ret := some (readReg idx s) } := rfl
  simp only [BitVec.ofNat_toNat]
  refine ⟨hread 0, hread 1, hread 2, hread 3, hread 4, hread 5, hread 6, hread 7, hread 8, hread 10, hread 11,
    hread 12, fun idx hidx => ?_, ⟨bufPos s, hread 13, ?_, ?_⟩, statusWord s, hread 9, extractLsb'_statusWord_phase s,
    ?_, ?_, ?_, ?_, ?_, ?_, extractLsb'_statusWord_rest s⟩
  · rw [hread, readReg_of_fourteen_le hidx]
  · rw [bufPos_eq_append, BitVec.extractLsb'_append_eq_right]
  · rw [bufPos_eq_append, BitVec.extractLsb'_append_eq_left]
  -- the six flags of `STATUS`
  all_goals
    rw [getLsbD_statusWord s (by decide)]
    simp [timerArmed]

/-! ### Validation and `INIT` (R152, R153) -/

namespace Machine

/-- Each bit of the mask is the failure of its own rule. -/
theorem getLsbD_failBits : ∀ v1 v2 v3 v4 v5 v6 : Bool,
    let mask := failBit v1 0 ||| failBit v2 1 ||| failBit v3 2 ||| failBit v4 3 ||| failBit v5 4 ||| failBit v6 5
    mask.getLsbD 0 = !v1 ∧ mask.getLsbD 1 = !v2 ∧ mask.getLsbD 2 = !v3 ∧ mask.getLsbD 3 = !v4 ∧
      mask.getLsbD 4 = !v5 ∧ mask.getLsbD 5 = !v6 := by
  decide

end Machine

/-- Settles O16: bit `k-1` of the mask is the failure of rule `Vk`, and a rule passes exactly when its bound holds. -/
theorem validationReportsEachFailedRule : Obligations.ValidationReportsEachFailedRule := by
  intro P s
  obtain ⟨h1, h2, h3, h4, h5, h6⟩ := getLsbD_failBits (rulePassesV1 s) (rulePassesV2 P s) (rulePassesV3 P s)
    (rulePassesV4 s) (rulePassesV5 s) (rulePassesV6 P s)
  have hfails (bound : Prop) [Decidable bound] : (!decide bound) = true ↔ ¬bound := by simp
  exact ⟨h1 ▸ hfails _, h2 ▸ hfails _, h3 ▸ hfails _, h4 ▸ hfails _, h5 ▸ hfails _, h6 ▸ hfails _⟩

/-- Settles O17: one closed form of `INIT` for each of its three ends. -/
theorem initRefusesFaultsOrBoots : Obligations.InitRefusesFaultsOrBoots := fun _ =>
  ⟨fun hlock => congrArg Host.Outcome.next (initialise_of_locked hlock), fun ⟨hvalid, hfault⟩ =>
    ⟨fun hfail => congrArg Host.Outcome.next (initialise_of_invalid hvalid hfault hfail),
      fun hpass => congrArg Host.Outcome.next (initialise_of_valid hvalid hfault hpass)⟩⟩

end Sys2Proof

/-!
SUPPORT. The family 43_mac.md: what each operation does in each phase (R171 to R203), with the backoff of 44_backoff.md
at the end of a jam. First stand the common way back to listening (`listenAgain`) and what a `BYTE` and an expiring `TICK`
do, phase by phase; then the statements on single operations, their frames, the transition table, and two runs: a send
on a quiet bus and a collision on the reference bus.
-/

namespace Sys2Proof

open Machine

namespace Machine

/-! ### Back to listening (R172, R176, R192, R201) -/

/-- `s` listening again with a full window, the registers of the session cleared, after the outputs `os`. -/
def listenAgain (os : List Output) (s : State) : State :=
  { s with
    phase := .sensingCarrier, timer := s.ifgTicks, bufLen := 0, idx := 0, rxOvf := false, out := s.out ++ os }

/-- The output of the end of a body: what it decodes to decides between a delivery and a drop (R201). -/
def bodyOutput (s : State) : DecodeResult → Output
  | .frame f => frameOutput s f
  | .checksumMismatch => .drop 0x02
  | .malformedFrame => .drop 0x03

section

variable {P : Params} {s t : State}

theorem enterIdle_emit_of_running (o : Output) (hrun : running s = true) :
    enterIdle (emit o s) = listenAgain [o] s := by
  rw [enterIdle_of_running (by simpa using hrun)]
  rfl

theorem takeError_malformedFrame_of_running (hrun : running s = true) :
    takeError .malformedFrame s = listenAgain [.drop 0x03] s :=
  enterIdle_emit_of_running _ hrun

theorem deliver_eq_listenAgain (r : DecodeResult) (hrun : running s = true) :
    deliver s r = listenAgain [bodyOutput s r] s := by
  cases r with
  | frame f => rw [deliver_frame, enterIdle_emit_of_running _ hrun, bodyOutput]
  | checksumMismatch | malformedFrame => exact enterIdle_emit_of_running _ hrun

/-- A request ends after the line has been released (R188, R192). -/
theorem completeSend_emit_of_running (status : Byte) (o : Output) (hrun : running s = true) :
    completeSend status (emit o s) =
      listenAgain [o, .senddone status] { s with sendPending := false, retry := 0 } := by
  rw [completeSend_of_running status (by simpa using hrun)]
  simp [listenAgain, emit]

/-! ### What a `BYTE` does (R177, R199) -/

theorem rxByte_eq_next {b : Byte} :
    rxByte P b s = .next t ↔
      (b = delim ∧ rxComplete P s = .next t) ∨ (b ≠ delim ∧ rxStore P b s = .next t) := by
  unfold rxByte
  split_ifs with hb <;> simp [hb]

/-- A received byte ends the body, is stored, or overflows. -/
theorem rxByte_next_of_running {b : Byte} (hrun : running s = true) (ht : rxByte P b s = .next t) :
    (b = delim ∧ ∃ o, t = listenAgain [o] s) ∨
    (b ≠ delim ∧ s.bufLen.toNat < rxLimit s ∧
      t = { s with
        buf := Memory.write s.buf s.bufLen.toNat b, bufLen := s.bufLen + 1, timer := s.ifgTicks }) ∨
    (b ≠ delim ∧ rxLimit s ≤ s.bufLen.toNat ∧ t = { s with rxOvf := true, timer := s.ifgTicks }) := by
  rcases rxByte_eq_next.mp ht with ⟨hb, hend⟩ | ⟨hb, hstore⟩
  · rcases rxComplete_eq_next.mp hend with ⟨_, rfl⟩ | ⟨_, body, _, rfl⟩
    · exact .inl ⟨hb, _, takeError_malformedFrame_of_running hrun⟩
    · exact .inl ⟨hb, _, deliver_eq_listenAgain _ hrun⟩
  · rcases rxStore_eq_next.mp hstore with ⟨hlt, _, rfl⟩ | ⟨hfull, rfl⟩
    · exact .inr (.inl ⟨hb, hlt, rfl⟩)
    · exact .inr (.inr ⟨hb, hfull, rfl⟩)

/-- What a `BYTE` does when it does not fault: it is discarded, or follows the rule of the phase. -/
theorem byteArrives_eq_next {b : Byte} :
    byteArrives P b s = .next t ↔
      ((running s = false ∨ s.phase = .backingOff) ∧ t = s) ∨
      (running s = true ∧
        ((s.phase = .sensingCarrier ∧ rxByte P b (enterReceiving s) = .next t) ∨
          (s.phase = .receiving ∧ rxByte P b s = .next t) ∨
          (s.phase = .transmitting ∧ echoByte b s = .next t) ∨
          (s.phase = .jamming ∧ t = jamByte s))) := by
  unfold byteArrives
  cases hrun : running s with
  | false => simp [eq_comm]
  | true => cases hp : s.phase <;> simp [eq_comm]

end

end Machine

/-! ### `BYTE`, phase by phase -/

/-- Settles O24: the byte is discarded by the first two branches of R177. -/
theorem bytesAreDiscardedInBackingOffAndWhenNotRunning :
    Obligations.BytesAreDiscardedInBackingOffAndWhenNotRunning := fun _ _ h =>
  byteArrives_eq_next.mpr (.inl ⟨h, rfl⟩)

/-- Settles O25: the rule of `Jamming` does not look at the byte. -/
theorem everyByteInJammingWritesAnotherJamByte : Obligations.EveryByteInJammingWritesAnotherJamByte :=
  fun _ _ hrun hp => byteArrives_eq_next.mpr (.inr ⟨hrun, .inr (.inr (.inr ⟨hp, rfl⟩))⟩)

/-- Settles O26, along the three ends of the echo comparison; the index does not overflow below `BUFLEN`. -/
theorem theEchoIsComparedWithTheByteWritten : Obligations.TheEchoIsComparedWithTheByteWritten := by
  intro s b e hrun hp he
  have hecho {t : State} (ht : echoByte b s = .next t) : exec (.byte b) s = .next t :=
    byteArrives_eq_next.mpr (.inr ⟨hrun, .inr (.inr (.inl ⟨hp, ht⟩))⟩)
  refine ⟨fun ⟨hbe, hmore⟩ w hw => hecho ?_, fun ⟨hbe, hlast⟩ => hecho ?_, fun hbe => hecho ?_⟩
  · have hidx : (s.idx + 1).toNat = s.idx.toNat + 1 := by bv_omega
    exact echoByte_eq_next.mpr ⟨e, he, .inr (.inl ⟨hbe, by bv_omega, w, by rw [hidx, hw], rfl⟩)⟩
  · have hend := completeSend_emit_of_running (s := { s with idx := s.idx + 1, txen := false }) okCode (.txen false) hrun
    exact echoByte_eq_next.mpr ⟨e, he, .inl ⟨hbe, by bv_omega, hend.symm⟩⟩
  · exact echoByte_eq_next.mpr ⟨e, he, .inr (.inr ⟨hbe, rfl⟩)⟩

/-- Settles O27: both clauses are about an empty body, whose first byte is stored or which ends as no frame. -/
theorem aByteWhileSensingStartsAReception : Obligations.AByteWhileSensingStartsAReception := by
  intro s b hrun hp
  rw [exec_byte_of_sensing b hrun hp, exec_byte_of_receiving (s := enterReceiving s) b hrun rfl]
  refine ⟨fun hb => ⟨Memory.write s.buf 0 b, ?_, Memory.read_write_same _ _ _,
    fun a ha => Memory.read_write_other _ _ ha⟩, fun hb => ?_⟩
  · have hlimit : 0 < rxLimit s := Nat.succ_pos _
    have hroom : 0 + 1 ≤ bufCap defaultParams := by decide
    exact rxByte_eq_next.mpr (.inr ⟨hb, rxStore_eq_next.mpr (.inl ⟨hlimit, hroom, rfl⟩)⟩)
  · have hdrop : deliver (enterReceiving s) .malformedFrame = listenAgain [.drop 0x03] (enterReceiving s) :=
      deliver_eq_listenAgain .malformedFrame hrun
    exact rxByte_eq_next.mpr (.inl ⟨hb, rxComplete_eq_next.mpr (.inr ⟨rfl, [], rfl, hdrop.symm⟩)⟩)

/-- Settles O28: the limit is `RX_LIMIT` written out, and by V6 `BUF` has room below it. -/
theorem aBodyByteIsStoredOrOverflows : Obligations.ABodyByteIsStoredOrOverflows := by
  intro s b hrun hp hb hmax
  have hlimit : rxLimit s = s.maxPayload.toNat + 4 + (s.maxPayload.toNat + 4) / 254 + 1 := rfl
  have hroom : rxLimit s < bufCap defaultParams := wireMax_le_bufCap hmax
  rw [exec_byte_of_receiving b hrun hp, ← hlimit]
  refine ⟨fun hlt => ⟨Memory.write s.buf s.bufLen.toNat b, ?_, Memory.read_write_same _ _ _,
    fun a ha => Memory.read_write_other _ _ ha⟩, fun hfull => ?_⟩
  · exact rxByte_eq_next.mpr (.inr ⟨hb, rxStore_eq_next.mpr (.inl ⟨hlt, by omega, rfl⟩)⟩)
  · exact rxByte_eq_next.mpr (.inr ⟨hb, rxStore_eq_next.mpr (.inr ⟨hfull, rfl⟩)⟩)

/-- Settles O29: after an overflow the body is dropped unread, else what it decodes to decides the output. -/
theorem theDelimiterDeliversOrDropsTheFrame : Obligations.TheDelimiterDeliversOrDropsTheFrame := by
  intro s hrun hp
  rw [exec_byte_of_receiving 0 hrun hp]
  refine ⟨fun hovf => rxByte_eq_next.mpr (.inl ⟨rfl, rxComplete_eq_next.mpr (.inl ⟨hovf, ?_⟩)⟩),
    fun hovf body hbody => rxByte_eq_next.mpr (.inl ⟨rfl, rxComplete_eq_next.mpr (.inr ⟨hovf, body, hbody, ?_⟩)⟩)⟩
  · exact (takeError_malformedFrame_of_running hrun).symm
  · rw [deliver_eq_listenAgain _ hrun]
    show _ = listenAgain [bodyOutput s (decodeFrame checksum16 s.maxPayload body)] s
    cases decodeFrame checksum16 s.maxPayload body <;> rfl

/-! ### `SEND` and `CANCEL` (R174, R175) -/

namespace Machine

/-- What a write of bytes from index 0 reads as: the bytes, and beyond them what stood there. -/
theorem Memory.read_writeBytes_zero (m : Memory) (bs : List Byte) {a : Nat} (ha : a < bs.length) :
    Memory.read (Memory.writeBytes m 0 bs) a = bs[a]? := by
  simpa using Memory.read_of_readBytes (Memory.readBytes_writeBytes bs m 0) a ha

section

variable {P : Params} {s : State} {len : Half} {payload : List Byte}

theorem requestSend_of_refused (dst : Byte) (h : running s = false ∨ s.sendPending = true) :
    requestSend P dst len payload s = .next { s with ret := some 0xFF } := by
  unfold requestSend
  rcases h with hrun | hpend
  · rw [if_pos (by simp [hrun])]
    rfl
  · rw [if_pos hpend, ite_self]
    rfl

theorem requestSend_of_tooLarge (dst : Byte) (hrun : running s = true) (hpend : s.sendPending = false)
    (hlarge : s.maxPayload.toNat < len.toNat) :
    requestSend P dst len payload s = .next { s with ret := some 1 } := by
  rw [requestSend, if_neg (by simp [hrun]), if_neg (by simp [hpend]), if_pos hlarge]
  rfl

theorem requestSend_of_fits (dst : Byte) (hrun : running s = true) (hpend : s.sendPending = false)
    (hfits : len.toNat ≤ s.maxPayload.toNat) (hcap : payload.length ≤ P.payloadCap) :
    requestSend P dst len payload s = .next { s with
      txDst := dst, txLen := len, txPay := Memory.writeBytes s.txPay 0 payload, sendPending := true, retry := 0,
      timer := if s.phase = .sensingCarrier ∧ s.timer = 0 then s.ifgTicks else s.timer, ret := some 0 } := by
  obtain ⟨t, ht⟩ : ∃ t, requestSend P dst len payload s = .next t := by
    rw [requestSend, if_neg (by simp [hrun]), if_neg (by simp [hpend]), if_neg (by omega)]
    exact ⟨_, andThen_eq_next.mpr ⟨_, txPayWrite_eq_next.mpr ⟨hcap, rfl⟩, rfl⟩⟩
  rcases requestSend_next ht with ⟨hno, _⟩ | ⟨_, _, hlarge, _⟩ | ⟨_, _, _, _, rfl⟩
  · simp [hrun, hpend] at hno
  · omega
  · exact ht

end

end Machine

/-- Settles O22: one lemma per end of `SEND`; the stored bytes are those of one write from index 0. -/
theorem sendIsRefusedTooLargeOrLatched : Obligations.SendIsRefusedTooLargeOrLatched := by
  intro s dst len payload hlen
  refine ⟨requestSend_of_refused dst, fun ⟨hrun, hpend, hlarge⟩ => requestSend_of_tooLarge dst hrun hpend hlarge,
    fun ⟨hrun, hpend, hfits, hmax⟩ => ⟨Memory.writeBytes s.txPay 0 payload, ?_, fun a ha => ?_, fun a ha => ?_⟩⟩
  · have hcap : payload.length ≤ defaultParams.payloadCap := hlen.trans_le (hfits.trans hmax)
    exact requestSend_of_fits dst hrun hpend hfits hcap
  · exact Memory.read_writeBytes_zero _ _ (by omega)
  · exact Memory.read_writeBytes_outside _ _ _ _ (by omega)

/-- Settles O23, by the one condition of `CANCEL`. -/
theorem cancelWithdrawsOnlyBeforeTransmission : Obligations.CancelWithdrawsOnlyBeforeTransmission := fun _ =>
  ⟨fun h => congrArg Host.Outcome.next (if_pos h), fun h => congrArg Host.Outcome.next (if_neg h)⟩

/-! ### `TICK`, phase by phase (R178) -/

/-- Settles O30: the two ends of a tick that is no expiry. -/
theorem aTickCountsTheTimerDown : Obligations.ATickCountsTheTimerDown := fun _ =>
  ⟨fun h => tickElapses_eq_next.mpr (.inl ⟨h, rfl⟩), exec_tick_of_one_lt⟩

namespace Machine

theorem exec_tick_of_expiry {s t : State} (htimer : s.timer = 1)
    (h : expiry defaultParams { s with timer := 0 } = .next t) : exec .tick s = .next t :=
  tickElapses_eq_next.mpr (.inr (.inl ⟨htimer, h⟩))

end Machine

/-- Settles O33: the expiry rule of `Transmitting` is `EnterJamming`. -/
theorem aMissingEchoIsACollision : Obligations.AMissingEchoIsACollision := fun _ hp htimer =>
  exec_tick_of_expiry htimer (expiry_eq_next.mpr (.inr (.inl ⟨hp, rfl⟩)))

/-- Settles O36: the expiry rule of `BackingOff` is `EnterSensing`. -/
theorem theBackoffExpirySensesAgain : Obligations.TheBackoffExpirySensesAgain := fun _ hp htimer =>
  exec_tick_of_expiry htimer (expiry_eq_next.mpr (.inr (.inr (.inr (.inl ⟨hp, rfl⟩)))))

/-- Settles O37: the expiry rule of `Receiving` takes `MalformedFrame`. -/
theorem aReceptionThatStopsIsDropped : Obligations.AReceptionThatStopsIsDropped := fun s hrun hp htimer =>
  have hdrop := takeError_malformedFrame_of_running (s := { s with timer := 0 }) hrun
  exec_tick_of_expiry htimer (expiry_eq_next.mpr (.inr (.inr (.inr (.inr ⟨hp, hdrop.symm⟩)))))

/-! #### The two expiries that ask (R186, R196)

The step asks after it has set the timer to 0 (and, in `Jamming`, released the line), which no answer depends on. -/

namespace Machine

theorem lineIdleAnswered_expired {s t : State} {q : Word} (h : LineIdleAnswered s q t) :
    LineIdleAnswered { s with timer := 0 } q { t with timer := 0 } := by
  rcases h with ⟨qs, hq, rfl⟩ | ⟨hnone, rest, hrecord, rfl⟩ | ⟨hnone, hno, hq, rfl⟩
  · exact .inl ⟨qs, hq, rfl⟩
  · exact .inr (.inl ⟨hnone, rest, hrecord, rfl⟩)
  · exact .inr (.inr ⟨hnone, hno, hq, rfl⟩)

/-- The block at the end of a jam: the timer at 0, the line released (R196). -/
def jamEnded (s : State) : State := emit (.txen false) { s with timer := 0, txen := false }

theorem randomAnswered_jamEnded {s t : State} {range x : Nat} (h : RandomAnswered s range x t) :
    RandomAnswered (jamEnded s) range x (jamEnded t) := by
  rcases h with ⟨v, vs, hv, hx, hlt, rfl⟩ | ⟨hnone, v, rest, hrecord, hx, hlt, rfl⟩ | ⟨hnone, hno, hx, rfl⟩
  · exact .inl ⟨v, vs, hv, hx, hlt, rfl⟩
  · exact .inr (.inl ⟨hnone, v, rest, hrecord, hx, hlt, rfl⟩)
  · exact .inr (.inr ⟨hnone, hno, hx, rfl⟩)

/-- Every sensing expiry whose question is answered with `q` goes on by comparing `q` with the gap. -/
theorem exec_tick_of_sensing {s t u : State} {q : Word} (hp : s.phase = .sensingCarrier) (htimer : s.timer = 1)
    (hanswer : LineIdleAnswered s q t)
    (h : (q.toNat < t.ifgTicks.toNat ∧ u = enterReceiving { t with timer := 0 }) ∨
      (t.ifgTicks.toNat ≤ q.toNat ∧ t.sendPending = true ∧
        beginTransmit defaultParams { t with timer := 0 } = .next u) ∨
      (t.ifgTicks.toNat ≤ q.toNat ∧ t.sendPending = false ∧ u = { t with timer := 0 })) :
    exec .tick s = .next u :=
  exec_tick_of_expiry htimer
    (expiry_eq_next.mpr (.inl ⟨hp, sensingExpiry_eq_next.mpr ⟨q, _, lineIdleAnswered_expired hanswer, h⟩⟩))

/-! The three ends of a draw (44_backoff.md R234, R235). -/

theorem backoffAfterDraw_of_exhausted {s : State} (delay : Nat) (hrun : running s = true)
    (h : s.maxRetries.toNat < (s.retry + 1).toNat) :
    backoffAfterDraw delay s = listenAgain [.senddone 0x04] { s with sendPending := false, retry := 0 } := by
  rw [backoffAfterDraw_eq, if_pos h]
  exact completeSend_of_running 0x04 (by exact hrun)

theorem backoffAfterDraw_of_zero {s : State} {delay : Nat} (h : (s.retry + 1).toNat ≤ s.maxRetries.toNat)
    (hzero : delay = 0) :
    backoffAfterDraw delay s =
      { s with phase := .sensingCarrier, timer := s.ifgTicks, retry := s.retry + 1 } := by
  rw [backoffAfterDraw_eq, if_neg h.not_gt, if_pos hzero]
  rfl

theorem backoffAfterDraw_of_wait {s : State} {delay : Nat} (h : (s.retry + 1).toNat ≤ s.maxRetries.toNat)
    (hwait : delay ≠ 0) :
    backoffAfterDraw delay s =
      { s with phase := .backingOff, timer := BitVec.ofNat 32 delay, retry := s.retry + 1 } := by
  rw [backoffAfterDraw_eq, if_neg h.not_gt, if_neg hwait]
  rfl

/-- With the range within the timer, the drawn delay decides how the end of a jam goes on. -/
theorem exec_tick_of_jamming {s t : State} {x : Nat} (hp : s.phase = .jamming) (htimer : s.timer = 1)
    (hlo : backoffLo s ≤ backoffHi s) (hhi : backoffHi s < 2 ^ 32)
    (hanswer : RandomAnswered s (backoffHi s - backoffLo s + 1) x t) :
    exec .tick s = .next (backoffAfterDraw (backoffLo s + x) (jamEnded t)) :=
  have hdraw : enterBackoff (jamEnded s) = .next (backoffAfterDraw (backoffLo s + x) (jamEnded t)) :=
    enterBackoff_eq_next.mpr ⟨hlo, hhi, x, jamEnded t, by exact randomAnswered_jamEnded hanswer, rfl⟩
  exec_tick_of_expiry htimer (expiry_eq_next.mpr (.inr (.inr (.inl ⟨hp, hdraw⟩))))

end Machine

/-- Settles O32, along the three ends of the sensing expiry; what is stored is one write of the wire frame. -/
theorem theSensingExpiryReceivesTransmitsOrListens : Obligations.TheSensingExpiryReceivesTransmitsOrListens := by
  intro s t q hp htimer hanswer
  obtain ⟨answers, input, asked, rfl⟩ : ∃ answers input asked,
      t = { s with lineIdleAns := answers, input := input, asked := asked } :=
    ⟨_, _, _, lineIdleAnswered_eq hanswer⟩
  refine ⟨fun hq => exec_tick_of_sensing hp htimer hanswer (.inl ⟨hq, rfl⟩),
    fun ⟨hq, hfree⟩ => exec_tick_of_sensing hp htimer hanswer (.inr (.inr ⟨hq, hfree, rfl⟩)),
    fun ⟨hq, hpend⟩ p hpay hlen hmax => ?_⟩
  obtain ⟨b, w, hframe, hwire⟩ := encodeFrame_exists (checksum := checksum16) s.txDst s.localAddr hlen
  have hroom : w.length + 1 ≤ bufCap defaultParams := hwire.trans (wireMax_le_bufCap (hlen.trans hmax))
  have hcap := bufCap_lt_of_legal defaultParams_legal
  have hpos : 0 < (BitVec.ofNat 16 (w.length + 1)).toNat := by bv_omega
  have hwireFrame : wireFrame defaultParams s = some (b :: w) := by
    rw [wireFrame, hpay]
    exact hframe
  refine ⟨b, w, Memory.writeBytes s.buf 0 (b :: w), hframe, ?_, fun a ha => Memory.read_writeBytes_zero _ _ ha,
    fun a ha => Memory.read_writeBytes_outside _ _ _ _ (.inr (by simpa using ha))⟩
  exact exec_tick_of_sensing hp htimer hanswer
    (.inr (.inl ⟨hq, hpend, beginTransmit_eq_next.mpr ⟨b, w, hwireFrame, hroom, hpos, rfl⟩⟩))

/-- Settles O34, along the three ends of the draw; within `MAX_RETRIES` the 6-bit counter does not overflow. -/
theorem theJamExpiryDrawsADelayOrAbandons : Obligations.TheJamExpiryDrawsADelayOrAbandons := by
  intro s t x hrun hp htimer hrange hfits hbound hanswer
  have htick := exec_tick_of_jamming hp htimer (Nat.mul_le_mul_right _ hrange) hfits hanswer
  obtain ⟨answers, input, asked, rfl⟩ : ∃ answers input asked,
      t = { s with randomAns := answers, input := input, asked := asked } :=
    ⟨_, _, _, randomAnswered_eq hanswer⟩
  have hretry : (s.retry + 1).toNat = s.retry.toNat + 1 := by bv_omega
  refine ⟨fun hexhausted => htick.trans (congrArg Host.Outcome.next ?_),
    fun ⟨hmore, hzero⟩ => htick.trans (congrArg Host.Outcome.next ?_),
    fun ⟨hmore, hwait⟩ => htick.trans (congrArg Host.Outcome.next ?_)⟩
  · rw [backoffAfterDraw_of_exhausted _ (by exact hrun) (by exact hretry ▸ hexhausted)]
    simp [listenAgain, jamEnded, emit]
  · exact backoffAfterDraw_of_zero (by exact hretry ▸ hmore) hzero
  · exact backoffAfterDraw_of_wait (by exact hretry ▸ hmore) hwait

/-! ### What a `BYTE` and a `TICK` leave unchanged

That neither writes the configuration or the operands of the request is `SessionOnly`; what is added here is `BUF`, the
phase (R171) and, for `BYTE`, what its collaborators have delivered. -/

namespace Machine

/-- What the environment has delivered and been asked (logs 1, 3). -/
def collaborators (s : State) : List Byte × List Word × List Word × List Question :=
  (s.input, s.lineIdleAns, s.randomAns, s.asked)

/-- From `s` to `t`, as a `BYTE b` leads there: nothing is asked, one byte is stored at most, and the phase moves along a
row of R171 if it moves. -/
structure ByteFrame (b : Byte) (s t : State) : Prop where
  boundary : collaborators t = collaborators s
  buf : t.buf = (storeIndex s b).elim s.buf fun i => Memory.write s.buf i b
  phase : t.phase = s.phase ∨ (s.phase, t.phase) ∈ byteMoves

section

variable {P : Params} {s t : State} {b : Byte}

theorem storeIndex_of_discarded (h : running s = false ∨ s.phase = .backingOff) : storeIndex s b = none := by
  rcases h with hrun | hp
  · simp [storeIndex, hrun]
  · simp [storeIndex, hp]

theorem storeIndex_of_delim (hb : b = delim) : storeIndex s b = none := if_pos (.inr hb)

/-- A driving block compares the byte, or writes another jam byte, and stores nothing (R188, R195). -/
theorem storeIndex_of_driving (hp : Driving s.phase) : storeIndex s b = none := by
  rcases hp with hp | hp <;> simp [storeIndex, hp]

theorem storeIndex_of_sensing (hrun : running s = true) (hb : b ≠ delim) (hp : s.phase = .sensingCarrier) :
    storeIndex s b = some 0 := by
  simp [storeIndex, hrun, hb, hp]

theorem storeIndex_of_receiving (hrun : running s = true) (hb : b ≠ delim) (hp : s.phase = .receiving) :
    storeIndex s b = if s.bufLen.toNat < rxLimit s then some s.bufLen.toNat else none := by
  simp [storeIndex, hrun, hb, hp]

theorem ByteFrame.of_sensing (hrun : running s = true) (hp : s.phase = .sensingCarrier)
    (ht : rxByte P b (enterReceiving s) = .next t) : ByteFrame b s t := by
  rcases rxByte_next_of_running (s := enterReceiving s) hrun ht with
    ⟨hb, _, rfl⟩ | ⟨hb, _, rfl⟩ | ⟨_, hfull, _⟩
  · exact ⟨rfl, by rw [storeIndex_of_delim hb]; rfl, .inl hp.symm⟩
  · exact ⟨rfl, by rw [storeIndex_of_sensing hrun hb hp]; rfl, .inr (by simp [hp, byteMoves])⟩
  · exact absurd hfull (by simp [rxLimit, stuffMax])

theorem ByteFrame.of_receiving (hrun : running s = true) (hp : s.phase = .receiving)
    (ht : rxByte P b s = .next t) : ByteFrame b s t := by
  rcases rxByte_next_of_running hrun ht with ⟨hb, _, rfl⟩ | ⟨hb, hlt, rfl⟩ | ⟨hb, hfull, rfl⟩
  · exact ⟨rfl, by rw [storeIndex_of_delim hb]; rfl, .inr (by simp [hp, byteMoves, listenAgain])⟩
  · exact ⟨rfl, by rw [storeIndex_of_receiving hrun hb hp, if_pos hlt]; rfl, .inl rfl⟩
  · exact ⟨rfl, by rw [storeIndex_of_receiving hrun hb hp, if_neg hfull.not_gt]; rfl, .inl rfl⟩

theorem ByteFrame.of_transmitting (hrun : running s = true) (hp : s.phase = .transmitting)
    (ht : echoByte b s = .next t) : ByteFrame b s t := by
  have hnone : storeIndex s b = none := storeIndex_of_driving (.inl hp)
  obtain ⟨_, _, ⟨_, _, rfl⟩ | ⟨_, _, _, _, rfl⟩ | ⟨_, rfl⟩⟩ := echoByte_eq_next.mp ht
  · rw [completeSend_emit_of_running okCode (.txen false) (by exact hrun)]
    exact ⟨rfl, by rw [hnone]; rfl, .inr (by simp [hp, byteMoves, listenAgain])⟩
  · exact ⟨rfl, by rw [hnone]; rfl, .inl rfl⟩
  · exact ⟨rfl, by rw [hnone]; rfl, .inr (by simp [hp, byteMoves])⟩

/-- `BYTE`, phase by phase (R177). -/
theorem ByteFrame.of_byteArrives (ht : byteArrives P b s = .next t) : ByteFrame b s t := by
  rcases byteArrives_eq_next.mp ht with
    ⟨hdiscard, rfl⟩ | ⟨hrun, ⟨hp, ht⟩ | ⟨hp, ht⟩ | ⟨hp, ht⟩ | ⟨hp, rfl⟩⟩
  · exact ⟨rfl, by rw [storeIndex_of_discarded hdiscard]; rfl, .inl rfl⟩
  · exact .of_sensing hrun hp ht
  · exact .of_receiving hrun hp ht
  · exact .of_transmitting hrun hp ht
  · exact ⟨rfl, by rw [storeIndex_of_driving (.inr hp)]; rfl, .inl rfl⟩

end

end Machine

/-- Settles O41: a `BYTE` writes the session at most (`SessionOnly`), and of `BUF` the one byte of `storeIndex`. -/
theorem aByteChangesOnlyTheSession : Obligations.AByteChangesOnlyTheSession := by
  intro s t b ht
  have hsession : SessionOnly s t := sessionOnly_of_byteArrives ht
  obtain ⟨hcoll, hbuf, _⟩ : ByteFrame b s t := .of_byteArrives ht
  obtain ⟨hconfig, hvalid, hfault, herr⟩ := lockedRegisters_eq_iff.mp hsession.lockedRegisters_eq
  simp only [collaborators, Prod.mk.injEq] at hcoll
  obtain ⟨hinput, hline, hrandom, hasked⟩ := hcoll
  refine ⟨hconfig, hvalid, hfault, herr, hsession.view_eq State.txDst fun _ => rfl,
    hsession.view_eq State.txLen fun _ => rfl, hsession.view_eq State.txPay fun _ => rfl, hinput, hline, hrandom,
    hasked, hsession.view_eq State.ret fun _ => rfl, fun a ha => ?_, fun a ha => ?_⟩
  · rw [hbuf]
    cases hidx : storeIndex s b with
    | none => rfl
    | some i => exact Memory.read_write_other _ _ fun hai => ha (by rw [hidx, hai])
  · rw [hbuf, ha]
    exact Memory.read_write_same _ _ _

namespace Machine

section

variable {P : Params} {s t : State}

theorem backoffAfterDraw_buf (delay : Nat) (s : State) : (backoffAfterDraw delay s).buf = s.buf := by
  rw [backoffAfterDraw_eq]
  split_ifs
  · exact completeSend_buf _ _
  · rfl
  · rfl

/-- Of the expiry rules, only the beginning of a transmission writes `BUF` (R184). -/
theorem buf_of_expiry (ht : expiry P s = .next t) :
    t.buf = s.buf ∨ (s.phase = .sensingCarrier ∧ t.phase = .transmitting ∧
      ∃ w, wireFrame P s = some w ∧ t.buf = Memory.writeBytes s.buf 0 w) := by
  rcases expiry_eq_next.mp ht with ⟨hp, ht⟩ | ⟨_, rfl⟩ | ⟨_, ht⟩ | ⟨_, rfl⟩ | ⟨_, rfl⟩
  · obtain ⟨q, u, hu, hends⟩ := sensingExpiry_eq_next.mp ht
    obtain ⟨answers, input, asked, rfl⟩ : ∃ answers input asked,
        u = { s with lineIdleAns := answers, input := input, asked := asked } :=
      ⟨_, _, _, lineIdleAnswered_eq hu⟩
    rcases hends with ⟨_, rfl⟩ | ⟨_, _, hbegin⟩ | ⟨_, _, rfl⟩
    · exact .inl rfl
    · obtain ⟨b, w, hframe, _, _, rfl⟩ := beginTransmit_eq_next.mp hbegin
      exact .inr ⟨hp, rfl, b :: w, hframe, rfl⟩
    · exact .inl rfl
  · exact .inl rfl
  · obtain ⟨_, _, x, u, hu, rfl⟩ := enterBackoff_eq_next.mp ht
    exact .inl ((backoffAfterDraw_buf _ u).trans ((congrArg State.buf (randomAnswered_eq hu)).trans rfl))
  · exact .inl rfl
  · exact .inl (enterIdle_buf _)

theorem buf_of_tickElapses (ht : tickElapses P s = .next t) :
    t.buf = s.buf ∨ (s.phase = .sensingCarrier ∧ t.phase = .transmitting ∧
      ∃ w, wireFrame P s = some w ∧ t.buf = Memory.writeBytes s.buf 0 w) := by
  rcases tickElapses_eq_next.mp ht with ⟨_, rfl⟩ | ⟨_, hexpiry⟩ | ⟨_, rfl⟩
  · exact .inl rfl
  · exact buf_of_expiry (s := { s with timer := 0 }) hexpiry
  · exact .inl rfl

end

end Machine

/-- Settles O42: a `TICK` writes the session at most, and `BUF` only where it begins a transmission. -/
theorem aTickChangesOnlyTheSession : Obligations.ATickChangesOnlyTheSession := by
  intro s t ht
  have hsession : SessionOnly s t := sessionOnly_of_tickElapses ht
  have hbuf := buf_of_tickElapses ht
  obtain ⟨hconfig, hvalid, hfault, herr⟩ := lockedRegisters_eq_iff.mp hsession.lockedRegisters_eq
  refine ⟨hconfig, hvalid, hfault, herr, hsession.view_eq State.txDst fun _ => rfl,
    hsession.view_eq State.txLen fun _ => rfl, hsession.view_eq State.txPay fun _ => rfl,
    hsession.view_eq State.ret fun _ => rfl, fun hphase => ?_, fun w hw a ha => ?_⟩
  · exact hbuf.resolve_right fun ⟨hsensing, hbegun, _⟩ => by simp [hsensing, hbegun] at hphase
  · rcases hbuf with hsame | ⟨_, _, w', hw', hwrite⟩
    · rw [hsame]
    · obtain rfl : w = w' := Option.some.inj (hw.symm.trans hw')
      rw [hwrite, Memory.read_writeBytes_outside _ _ _ _ (by omega)]

/-! ### The transition table (R171) -/

namespace Machine

section

variable {P : Params} {s t : State}

theorem backoffAfterDraw_phase (delay : Nat) (hrun : running s = true) :
    (backoffAfterDraw delay s).phase = .sensingCarrier ∨ (backoffAfterDraw delay s).phase = .backingOff := by
  rw [backoffAfterDraw_eq]
  split_ifs
  · exact .inl (congrArg State.phase (completeSend_of_running _ (by exact hrun)))
  · exact .inl rfl
  · exact .inr rfl

theorem phase_of_expiry (hrun : running s = true) (ht : expiry P s = .next t) :
    t.phase = s.phase ∨ (s.phase, t.phase) ∈ tickMoves := by
  rcases expiry_eq_next.mp ht with ⟨hp, ht⟩ | ⟨hp, rfl⟩ | ⟨hp, ht⟩ | ⟨hp, rfl⟩ | ⟨hp, rfl⟩
  · obtain ⟨q, u, hu, hends⟩ := sensingExpiry_eq_next.mp ht
    rcases hends with ⟨_, rfl⟩ | ⟨_, _, hbegin⟩ | ⟨_, _, rfl⟩
    · exact .inr (by simp [hp, tickMoves, enterReceiving])
    · obtain ⟨_, _, _, _, _, rfl⟩ := beginTransmit_eq_next.mp hbegin
      exact .inr (by simp [hp, tickMoves])
    · exact .inl ((congrArg State.phase (lineIdleAnswered_eq hu)).trans rfl)
  · exact .inr (by simp [hp, tickMoves])
  · obtain ⟨_, _, x, u, hu, rfl⟩ := enterBackoff_eq_next.mp ht
    have hrun' : running u = true := (congrArg running (randomAnswered_eq hu)).trans hrun
    have hends := backoffAfterDraw_phase (backoffLo (emit (.txen false) { s with txen := false }) + x) hrun'
    rcases hends with hend | hend <;> exact .inr (by rw [hend]; simp [hp, tickMoves])
  · exact .inr (by simp [hp, tickMoves])
  · rw [takeError_malformedFrame_of_running hrun]
    exact .inr (by simp [hp, tickMoves, listenAgain])

theorem phase_of_requestSend {dst : Byte} {len : Half} {payload : List Byte}
    (ht : requestSend P dst len payload s = .next t) : t.phase = s.phase := by
  rcases requestSend_next ht with ⟨_, rfl⟩ | ⟨_, _, _, rfl⟩ | ⟨_, _, _, _, rfl⟩ <;> rfl

theorem cancelSend_phase (s : State) : (cancelSend s).phase = s.phase := by
  unfold cancelSend
  split_ifs <;> rfl

theorem writeConfig_phase (idx : Byte) (val : Word) (s : State) : (writeConfig idx val s).phase = s.phase := by
  unfold writeConfig
  split_ifs
  · rfl
  · obtain ⟨c, hc⟩ := writeReg_exists idx val s
    rw [hc]
    rfl

end

end Machine

namespace Inv

variable {P : Params} {s t : State}

/-- Only an expiry moves the phase, and only in a running block is anything timed. -/
theorem phase_of_tickElapses (h : Inv P s) (ht : tickElapses P s = .next t) :
    t.phase = s.phase ∨ (s.timer = 1 ∧ (s.phase, t.phase) ∈ tickMoves) := by
  rcases tickElapses_eq_next.mp ht with ⟨_, rfl⟩ | ⟨htimer, hexpiry⟩ | ⟨_, rfl⟩
  · exact .inl rfl
  · have hrun := h.running_of_timer (by rw [htimer]; decide)
    exact (phase_of_expiry (s := { s with timer := 0 }) hrun hexpiry).imp_right fun hmove => ⟨htimer, hmove⟩
  · exact .inl rfl

/-- `INIT` moves the phase where it locks a valid configuration, and a block that is not locked rests in `Idle`. -/
theorem phase_of_initialise (h : Inv P s) :
    (initialise P s).phase = s.phase ∨ (s.phase = .idle ∧ (initialise P s).phase = .sensingCarrier) := by
  by_cases hlock : s.cfgValid = true ∨ s.fault = true
  · exact .inl (by rw [initialise_of_locked hlock])
  · simp only [not_or, Bool.not_eq_true] at hlock
    obtain ⟨hvalid, hfault⟩ := hlock
    by_cases hpass : validateConfig P s = 0#6
    · have hidle := (h.resting (by simp [running, hvalid])).phase
      exact .inr ⟨hidle, congrArg State.phase (initialise_of_valid hvalid hfault hpass)⟩
    · exact .inl (by rw [initialise_of_invalid hvalid hfault hpass])

end Inv

/-- Settles O47, operation by operation: only `RESET`, `INIT`, `BYTE` and `TICK` can move the phase. -/
theorem thePhaseFollowsTheTransitionTable : Obligations.ThePhaseFollowsTheTransitionTable := by
  intro i s t h ht hmoved
  rw [exec_eq_execFor] at ht
  cases i with
  | reset =>
    cases ht
    exact .inl ⟨rfl, by rw [resetBlock_eq]; rfl⟩
  | init =>
    cases ht
    exact .inr (.inl ⟨rfl, h.phase_of_initialise.resolve_left hmoved⟩)
  | byte b => exact .inr (.inr (.inl ⟨⟨b, rfl⟩, (ByteFrame.of_byteArrives ht).phase.resolve_left hmoved⟩))
  | tick => exact .inr (.inr (.inr ⟨rfl, (h.phase_of_tickElapses ht).resolve_left hmoved⟩))
  | send => exact absurd (phase_of_requestSend ht) hmoved
  | cfgwr idx val =>
    cases ht
    exact absurd (writeConfig_phase idx val s) hmoved
  | cancel =>
    cases ht
    exact absurd (cancelSend_phase s) hmoved
  | rdreg | lineidle | random | txen | write | senddone | rxdeliver | drop =>
    cases ht
    exact absurd rfl hmoved

/-! ### A send on a quiet bus (R184, R186, R188, R192) -/

namespace Machine

/-- The ticks that an armed timer takes end in the tick that expires it (10_state.md R41, R178). -/
theorem runScript_ticks {s t : State} (htimer : s.timer ≠ 0) (hexpiry : exec .tick { s with timer := 1 } = .next t) :
    runScript (scriptTicks s.timer.toNat) s = .next t := by
  obtain ⟨n, hn⟩ : ∃ n, s.timer.toNat = n + 1 := Nat.exists_eq_succ_of_ne_zero (by bv_omega)
  have hlast : s.timer - BitVec.ofNat 32 n = 1 := by bv_omega
  have hcount := aDeadlineLastsAsManyTicksAsArmed s n (by omega)
  rw [hlast] at hcount
  rw [hn, scriptTicks, List.replicate_succ', runScript_append]
  calc andThen (runScript (scriptTicks n) s) (runScript [.tick])
      = andThen (exec .tick { s with timer := 1 }) (runScript []) := by rw [hcount, andThen_next]; rfl
    _ = .next t := by rw [hexpiry]; rfl

theorem bufRead_of_append {s : State} {pre rest : List Byte} {b : Byte} {k : Nat}
    (hbuf : bufBytes s = some (pre ++ b :: rest)) (hk : k = pre.length) : bufRead s k = some b := by
  have hlen := bufBytes_length hbuf
  simp only [List.length_append, List.length_cons] at hlen
  rw [bufRead_of_bufBytes hbuf k (by omega), hk]
  simp

/-- The block listening again, the bytes `rest` of its frame written after those before, and the send reported (R192). -/
def frameSent (rest : List Byte) (s : State) : State :=
  listenAgain (rest.map .write ++ [.txen false, .senddone 0x00])
    { s with txen := false, sendPending := false, retry := 0 }

/-- Every byte of a frame echoed from the one last written on, the frame is written out and the send reported (R188). -/
theorem runScript_echoes (rest : List Byte) {pre : List Byte} {b : Byte} {s : State} (hrun : running s = true)
    (hp : s.phase = .transmitting) (hbuf : bufBytes s = some (pre ++ b :: rest)) (hidx : s.idx.toNat = pre.length) :
    runScript ((b :: rest).map .byte) s = .next (frameSent rest s) := by
  induction rest generalizing pre b s with
  | nil =>
    have hlen := bufBytes_length hbuf
    simp only [List.length_append, List.length_cons, List.length_nil] at hlen
    obtain ⟨_, hend, _⟩ := theEchoIsComparedWithTheByteWritten s b b hrun hp (bufRead_of_append hbuf hidx)
    rw [List.map_cons, runScript, hend ⟨rfl, by omega⟩]
    rfl
  | cons c rest ih =>
    have hlen := bufBytes_length hbuf
    simp only [List.length_append, List.length_cons] at hlen
    have hbuf' : bufBytes s = some ((pre ++ [b]) ++ c :: rest) := hbuf.trans (by simp)
    have hnext : bufRead s (s.idx.toNat + 1) = some c := bufRead_of_append hbuf' (by simp [hidx])
    obtain ⟨hmore, _, _⟩ := theEchoIsComparedWithTheByteWritten s b b hrun hp (bufRead_of_append hbuf hidx)
    have htail := ih (pre := pre ++ [b]) (b := c)
      (s := { s with idx := s.idx + 1, timer := s.ifgTicks, out := s.out ++ [.write c] }) hrun hp
      hbuf' (show (s.idx + 1).toNat = (pre ++ [b]).length by simp; bv_omega)
    rw [List.map_cons, runScript, hmore ⟨rfl, by omega⟩ c hnext, andThen_next, htail]
    simp [frameSent, listenAgain]

/-- The block as `BeginTransmit` leaves it, the frame `b :: w` in `BUF` and its first byte written (R184). -/
def transmissionBegun (b : Byte) (w : List Byte) (s : State) : State :=
  { s with
    buf := Memory.writeBytes s.buf 0 (b :: w), bufLen := BitVec.ofNat 16 (w.length + 1), idx := 0,
    phase := .transmitting, txen := true, timer := s.ifgTicks, out := s.out ++ [.txen true, .write b] }

theorem bufBytes_transmissionBegun (b : Byte) {w : List Byte} (s : State) (hlen : w.length + 1 < 2 ^ 16) :
    bufBytes (transmissionBegun b w s) = some (b :: w) := by
  have hcount : (BitVec.ofNat 16 (w.length + 1)).toNat = (b :: w).length := by
    rw [BitVec.toNat_ofNat, Nat.mod_eq_of_lt hlen, List.length_cons]
  show Memory.readBytes (Memory.writeBytes s.buf 0 (b :: w)) 0 (BitVec.ofNat 16 (w.length + 1)).toNat = some (b :: w)
  rw [hcount, Memory.readBytes_writeBytes]

/-- The block after its `LINEIDLE` question has taken the only answer supplied (log 3). -/
def lineIdleTaken (s : State) : State := { s with lineIdleAns := [], asked := s.asked ++ [.lineIdle] }

/-- A sensing window that ends on a quiet bus with a request pending begins its transmission (R186). -/
theorem runScript_quietWindow {s : State} {q : Word} {b : Byte} {w : List Byte} (hp : s.phase = .sensingCarrier)
    (hpend : s.sendPending = true) (htimer : s.timer ≠ 0) (hquiet : s.ifgTicks.toNat ≤ q.toNat)
    (hframe : wireFrame defaultParams s = some (b :: w)) (hroom : w.length + 1 ≤ bufCap defaultParams) :
    runScript (scriptTicks s.timer.toNat) { s with lineIdleAns := [q] } =
      .next (transmissionBegun b w (lineIdleTaken s)) := by
  have hcap := bufCap_lt_of_legal defaultParams_legal
  have hbegin : beginTransmit defaultParams { lineIdleTaken s with timer := 0 } =
      .next (transmissionBegun b w (lineIdleTaken s)) :=
    beginTransmit_eq_next.mpr ⟨b, w, hframe, hroom, by bv_omega, rfl⟩
  have hexpiry : exec .tick { s with lineIdleAns := [q], timer := 1 } =
      .next (transmissionBegun b w (lineIdleTaken s)) :=
    exec_tick_of_sensing (t := { lineIdleTaken s with timer := 1 }) hp rfl (.inl ⟨[], rfl, rfl⟩)
      (.inr (.inl ⟨hquiet, hpend, hbegin⟩))
  exact runScript_ticks (s := { s with lineIdleAns := [q] }) htimer hexpiry

end Machine

/-- Settles O55: the ticks of the window end in `BeginTransmit`, and the echoes of its frame in the report. -/
theorem aSendOnAQuietBusSucceeds : Obligations.ASendOnAQuietBusSucceeds := by
  intro s q h hp hpend htimer hnone hquiet
  have hrun := h.running_of_timer htimer
  obtain ⟨b, w, hframe, hroom⟩ := h.wireFrame_exists hrun hpend
  have hcap := bufCap_lt_of_legal defaultParams_legal
  have hanswer : exec (.lineidle q) s = .next { s with lineIdleAns := [q] } := by
    show Host.Outcome.next { s with lineIdleAns := s.lineIdleAns ++ [q] } = _
    rw [hnone, List.nil_append]
  have hwindow := runScript_quietWindow hp hpend htimer hquiet hframe hroom
  have hechoes := runScript_echoes w (pre := []) (s := transmissionBegun b w (lineIdleTaken s)) hrun rfl
    (bufBytes_transmissionBegun b _ (by omega)) rfl
  have hsend : runScript (.lineidle q :: scriptTicks s.timer.toNat ++ (b :: w).map .byte) s =
      .next (frameSent w (transmissionBegun b w (lineIdleTaken s))) := by
    rw [List.cons_append, runScript, hanswer, andThen_next, runScript_append, hwindow, andThen_next, hechoes]
  exact ⟨b :: w, _, hframe, hsend, by simp [frameSent, listenAgain, transmissionBegun, lineIdleTaken], rfl, rfl, rfl,
    rfl⟩

/-! ### A collision on the reference bus (R189, 60_exceptions.md R270, R271) -/

namespace Machine

section

variable {P : Params} {s t : State} {i : Instr}

theorem busNode_of_silent (ht : execFor P i s = .next t) (hout : t.out = s.out) : busNode P i s = some (t, []) := by
  simp [busNode, ht, hout]

theorem busNode_of_write {b : Byte} (ht : execFor P i s = .next t) (hout : t.out = s.out ++ [.write b])
    (htxen : t.txen = true) : busNode P i s = some (t, [b]) := by
  simp [busNode, ht, hout, htxen]

/-- The block after a tick that only counts its deadline down (R178). -/
def countedDown (s : State) : State := { s with timer := s.timer - 1 }

/-- A node whose deadline is more than one tick away only counts it down, whatever the bus would answer. -/
theorem busTickNode_of_one_lt (q : Word) (h : 1 < s.timer.toNat) :
    busTickNode P q s = some (countedDown s, []) := by
  have htick : execFor P .tick { s with lineIdleAns := [q] } =
      .next { s with lineIdleAns := [q], timer := s.timer - 1 } :=
    tickElapses_eq_next.mpr (.inr (.inr ⟨h, rfl⟩))
  rw [busTickNode, busNode_of_silent htick rfl]
  rfl

/-- A transmitting node that reads another byte than its own jams (R188, R189). -/
theorem busNode_of_collision {b x : Byte} (hrun : running s = true) (hp : s.phase = .transmitting)
    (htxen : s.txen = true) (hread : bufRead s s.idx.toNat = some x) (hne : b ≠ x) :
    busNode P (.byte b) s = some (enterJamming s, [delim]) := by
  have hecho : echoByte b s = .next (enterJamming s) := echoByte_eq_next.mpr ⟨x, hread, .inr (.inr ⟨hne, rfl⟩)⟩
  exact busNode_of_write (byteArrives_eq_next.mpr (.inr ⟨hrun, .inr (.inr (.inl ⟨hp, hecho⟩))⟩)) rfl htxen

end

/-- Two different bytes that join a slot at its opening corrupt each other: the slot delivers the harness's byte. -/
theorem slotByte_of_ne {harness x y : Byte} (t0 : Nat) (hxy : x ≠ y) (hx : harness ≠ x) (hy : harness ≠ y) :
    slotByte harness ⟨t0, [⟨0, x, t0⟩, ⟨1, y, t0⟩]⟩ = some harness := by
  simp [slotByte, hxy.symm, hx.symm, hy.symm]

end Machine

/-- Settles O56: in the tick each node counts its deadline down, then reads the harness's byte and jams. -/
theorem twoTransmittersThatDifferBothJam : Obligations.TwoTransmittersThatDifferBothJam := by
  intro P charTime t0 harness x y m n b hm hn hmp hnp hmt hnt hmx hny hxy hx hy hend hnodes hslot
  have hmrun := hm.running_of_phase (by simp [hmp])
  have hnrun := hn.running_of_phase (by simp [hnp])
  have hmtxen := hm.driving.mpr (.inl hmp)
  have hntxen := hn.driving.mpr (.inl hnp)
  obtain ⟨nodes, time, slot, lastEnd⟩ := b
  obtain rfl : nodes = [m, n] := hnodes
  obtain rfl : slot = some ⟨t0, [⟨0, x, t0⟩, ⟨1, y, t0⟩]⟩ := hslot
  have hticks (q : Word) : busEach (busTickNode P q) (time + 1) 0 [m, n] =
      some ([countedDown m, countedDown n], []) := by
    simp [busEach, busTickNode_of_one_lt, hmt, hnt]
  have hmjams : busNode P (.byte harness) (countedDown m) = some (enterJamming m, [delim]) :=
    busNode_of_collision (s := countedDown m) hmrun hmp hmtxen hmx hx
  have hnjams : busNode P (.byte harness) (countedDown n) = some (enterJamming n, [delim]) :=
    busNode_of_collision (s := countedDown n) hnrun hnp hntxen hny hy
  have hdelivered : busDeliver P charTime harness
      ⟨[countedDown m, countedDown n], time + 1, some ⟨t0, [⟨0, x, t0⟩, ⟨1, y, t0⟩]⟩, lastEnd⟩ =
      some (⟨[enterJamming m, enterJamming n], time + 1, none, time + 1⟩,
        [⟨0, delim, time + 1⟩, ⟨1, delim, time + 1⟩]) := by
    simp [busDeliver, hend, slotByte_of_ne t0 hxy hx hy, busEach, hmjams, hnjams]
  have htick : busTick P charTime harness [] ⟨[m, n], time, some ⟨t0, [⟨0, x, t0⟩, ⟨1, y, t0⟩]⟩, lastEnd⟩ =
      some ⟨[enterJamming m, enterJamming n], time + 1,
        some ⟨time + 1, [⟨0, delim, time + 1⟩, ⟨1, delim, time + 1⟩]⟩, time + 1⟩ := by
    simp [busTick, hticks, hdelivered, busCommands, busJoin]
  exact ⟨_, _, _, htick, rfl, rfl, rfl, hmtxen, hntxen, rfl⟩

end Sys2Proof

/-!
SUPPORT. The family 44_backoff.md: the delay of a retry lies within the range of its retry count (R236). The draw is
taken back out of the tick that ends a jam; what follows it is the law of its three ends (R234, R235).
-/

namespace Sys2Proof

open Machine

namespace Machine

theorem expiry_of_jamming {P : Params} {s : State} (hp : s.phase = .jamming) : expiry P s = jammingExpiry s := by
  simp only [expiry, hp]

/-- A tick that ends a jam with a next state has drawn a delay from the scaled range; only what the question consumes
stands between the end of the jam and what follows the draw (44_backoff.md R231, R232). -/
theorem exists_draw_of_tick_jamming {s t : State} (hp : s.phase = .jamming) (htimer : s.timer = 1)
    (ht : exec .tick s = .next t) :
    ∃ delay answers input asked, backoffLo s ≤ delay ∧ delay ≤ backoffHi s ∧
      t = backoffAfterDraw delay { jamEnded s with randomAns := answers, input := input, asked := asked } := by
  have hexpiry : expiry defaultParams { s with timer := 0 } = .next t := by
    rcases tickElapses_eq_next.mp ht with ⟨hzero, _⟩ | ⟨_, hexpiry⟩ | ⟨hmore, _⟩
    · simp [htimer] at hzero
    · exact hexpiry
    · simp [htimer] at hmore
  have hdraw : enterBackoff (jamEnded s) = .next t :=
    (expiry_of_jamming (s := { s with timer := 0 }) hp).symm.trans hexpiry
  obtain ⟨hrange, _, x, u, hanswer, rfl⟩ := enterBackoff_eq_next.mp hdraw
  have hx := askRandom_lt hanswer (Nat.succ_pos _)
  refine ⟨backoffLo s + x, u.randomAns, u.input, _, Nat.le_add_right _ x, ?_,
    congrArg (backoffAfterDraw (backoffLo s + x)) (randomAnswered_eq hanswer)⟩
  change backoffLo s ≤ backoffHi s at hrange
  change x < backoffHi s - backoffLo s + 1 at hx
  omega

/-- A delay of 0 is in the scaled range only where the range starts at 0 (R235). -/
theorem backoffMin_eq_zero_of_backoffLo {s : State} (h : backoffLo s = 0) : s.backoffMin = 0 :=
  BitVec.eq_of_toNat_eq ((Nat.mul_eq_zero.mp h).resolve_right (by positivity))

end Machine

/-- Settles O38, along the three ends of the draw; the bound on `RETRY` is R52 item 9 of the next state. -/
theorem theBackoffDelayIsBounded : Obligations.TheBackoffDelayIsBounded := by
  intro s t h hp htimer ht
  have hrun := h.running_of_phase (by simp [hp])
  have hpend : s.sendPending = true := h.pendingPhase (.inl (.inr hp))
  have hfits := h.backoffHi_lt hrun
  have hbound := h.retryBound
  have hretry : (s.retry + 1).toNat = s.retry.toNat + 1 := by bv_omega
  refine ⟨(h.after_tickElapses defaultParams_legal ht).retryBound, ?_⟩
  obtain ⟨delay, answers, input, asked, hlo, hhi, rfl⟩ := exists_draw_of_tick_jamming hp htimer ht
  by_cases hexhausted : s.maxRetries.toNat < (s.retry + 1).toNat
  · rw [backoffAfterDraw_of_exhausted delay (by exact hrun) (by exact hexhausted)]
    exact .inr ⟨rfl, rfl, .inr ⟨by omega, rfl⟩⟩
  · have hmore := Nat.le_of_not_lt hexhausted
    by_cases hzero : delay = 0
    · rw [backoffAfterDraw_of_zero (by exact hmore) hzero]
      exact .inr ⟨rfl, rfl, .inl ⟨backoffMin_eq_zero_of_backoffLo (by omega), hpend⟩⟩
    · rw [backoffAfterDraw_of_wait (by exact hmore) hzero]
      have htimed : (BitVec.ofNat 32 delay).toNat = delay := Nat.mod_eq_of_lt (hhi.trans_lt hfits)
      exact .inl ⟨rfl, hretry, hlo.trans_eq htimed.symm, htimed.trans_le hhi⟩

end Sys2Proof

/-!
SUPPORT. The family 60_exceptions.md: the fault mode (R256), a draw outside its range (R259, R264), answers supplied
ahead (R263, R264), where questions are asked, and the outputs toward the bus driver and the host (R262, R266). For the
outputs stands first the account that every procedure keeps: along them the line goes from the level of `TXEN` to its
new level, and the reports make up for the request that is no longer pending. Both add up along a sequence, so each
procedure is accounted for once; `SEND`, `CANCEL` and `RESET`, which latch and withdraw requests, stand apart.
-/

namespace Sys2Proof

open Machine

/-! ### Levels and reports along two lists of outputs -/

/-- The line goes on from the level at which the first list leaves it. -/
theorem lineLevel_append (os os' : List Output) (level : Bool) :
    lineLevel level (os ++ os') = (lineLevel level os).bind fun level' => lineLevel level' os' := by
  induction os generalizing level with
  | nil => rfl
  | cons o os ih =>
    cases o with
    | txen on =>
      simp only [List.cons_append, lineLevel]
      split_ifs
      · rfl
      · exact ih on
    | write b =>
      simp only [List.cons_append, lineLevel]
      split_ifs
      · exact ih level
      · rfl
    | senddone | rxdeliver | drop => exact ih level

theorem sendDones_append (os os' : List Output) : sendDones (os ++ os') = sendDones os + sendDones os' := by
  induction os with
  | nil => exact (Nat.zero_add _).symm
  | cons o os ih =>
    cases o with
    | senddone status =>
      simp only [List.cons_append, sendDones, ih]
      omega
    | txen | write | rxdeliver | drop => exact ih

/-! ### The account of a step -/

/-- From `s` to `t` the outputs `os` were added; along them the line is driven as R99 says, and it ends at `TXEN`
(R262, 10_state.md R39). -/
structure LineFollows (s t : State) (os : List Output) : Prop where
  out : t.out = s.out ++ os
  level : lineLevel s.txen os = some t.txen

/-- The line follows, and every request that is no longer pending has its `SENDDONE` (R266). -/
structure Accounted (s t : State) (os : List Output) : Prop extends LineFollows s t os where
  reports : sendDones os + t.sendPending.toNat = s.sendPending.toNat

theorem LineFollows.emitted_eq {s t : State} {os : List Output} (h : LineFollows s t os) : emitted s t = os := by
  rw [emitted, h.out, List.drop_left]

theorem LineFollows.of_silent {s t : State} (hout : t.out = s.out) (htxen : t.txen = s.txen) : LineFollows s t [] :=
  ⟨by rw [hout, List.append_nil], by rw [htxen]; rfl⟩

namespace Accounted

variable {s t u : State} {os os' : List Output}

theorem of_silent (hout : t.out = s.out) (htxen : t.txen = s.txen) (hpend : t.sendPending = s.sendPending) :
    Accounted s t [] :=
  ⟨.of_silent hout htxen, by rw [hpend]; exact Nat.zero_add _⟩

/-- An output that neither sets the line nor reports. -/
theorem of_output {o : Output} (hlevel : lineLevel s.txen [o] = some s.txen) (hnone : sendDones [o] = 0)
    (hout : t.out = s.out ++ [o]) (htxen : t.txen = s.txen) (hpend : t.sendPending = s.sendPending) :
    Accounted s t [o] :=
  ⟨⟨hout, hlevel.trans (congrArg some htxen.symm)⟩, by rw [hnone, hpend, Nat.zero_add]⟩

theorem trans (h : Accounted s t os) (h' : Accounted t u os') : Accounted s u (os ++ os') where
  out := by rw [h'.out, h.out, List.append_assoc]
  level := by rw [lineLevel_append, h.level, Option.bind_some, h'.level]
  reports := by
    have hfirst := h.reports
    have hsecond := h'.reports
    rw [sendDones_append]
    omega

/-- Along an account the one report is that of the request that ended. -/
theorem sendDones_eq (h : Accounted s t os) :
    sendDones os = if s.sendPending = true ∧ t.sendPending = false then 1 else 0 := by
  have hreports := h.reports
  cases hpend : s.sendPending with
  | false =>
    rw [hpend, Bool.toNat_false] at hreports
    rw [if_neg (by simp)]
    omega
  | true =>
    cases hkept : t.sendPending with
    | false =>
      rw [hpend, hkept] at hreports
      exact hreports
    | true =>
      rw [hpend, hkept, Bool.toNat_true] at hreports
      rw [if_neg (by simp)]
      omega

end Accounted

namespace Machine

/-! ### Every procedure keeps the account -/

section

variable {P : Params} {s t : State}

/-- A jam byte, or the next byte of the frame, on a line that is driven (R262). -/
theorem accounted_write (b : Byte) (htxen : s.txen = true) (hout : t.out = s.out ++ [.write b])
    (hsame : t.txen = s.txen) (hpend : t.sendPending = s.sendPending) : Accounted s t [.write b] :=
  .of_output (by rw [htxen]; rfl) rfl hout hsame hpend

/-- The end of a reception: an output, then `EnterIdle` (43_mac.md R201). -/
theorem accounted_enterIdle_emit {o : Output} (hlevel : lineLevel s.txen [o] = some s.txen)
    (hnone : sendDones [o] = 0) : Accounted s (enterIdle (emit o s)) [o] :=
  .of_output hlevel hnone (enterIdle_out _) (enterIdle_txen _) (enterIdle_sendPending _)

theorem accounted_deliver (s : State) (r : DecodeResult) : ∃ os, Accounted s (deliver s r) os := by
  cases r with
  | frame f =>
    rw [deliver_frame, frameOutput]
    split_ifs
    · exact ⟨_, accounted_enterIdle_emit rfl rfl⟩
    · exact ⟨_, accounted_enterIdle_emit rfl rfl⟩
  | checksumMismatch | malformedFrame => exact ⟨_, accounted_enterIdle_emit rfl rfl⟩

theorem accounted_of_rxByte {b : Byte} (ht : rxByte P b s = .next t) : ∃ os, Accounted s t os := by
  rcases rxByte_eq_next.mp ht with ⟨_, hend⟩ | ⟨_, hstore⟩
  · rcases rxComplete_eq_next.mp hend with ⟨_, rfl⟩ | ⟨_, _, _, rfl⟩
    · exact ⟨_, accounted_enterIdle_emit rfl rfl⟩
    · exact accounted_deliver s _
  · rcases rxStore_eq_next.mp hstore with ⟨_, _, rfl⟩ | ⟨_, rfl⟩ <;> exact ⟨_, .of_silent rfl rfl rfl⟩

/-- `CompleteSend` reports the request that it ends (43_mac.md R192). -/
theorem accounted_completeSend (status : Byte) (hpend : s.sendPending = true) :
    Accounted s (completeSend status s) [.senddone status] where
  out := completeSend_out status s
  level := congrArg some (completeSend_txen status s).symm
  reports := by rw [completeSend_sendPending, hpend]; rfl

/-- The line is released once, while it is driven (R188, R196). -/
theorem accounted_release (htxen : s.txen = true) (hout : t.out = s.out ++ [.txen false]) (hoff : t.txen = false)
    (hpend : t.sendPending = s.sendPending) : Accounted s t [.txen false] where
  out := hout
  level := by rw [htxen, hoff]; rfl
  reports := by rw [hpend]; exact Nat.zero_add _

theorem accounted_enterJamming (htxen : s.txen = true) : Accounted s (enterJamming s) [.write delim] :=
  accounted_write delim htxen rfl rfl rfl

theorem accounted_of_echoByte {b : Byte} (htxen : s.txen = true) (hpend : s.sendPending = true)
    (ht : echoByte b s = .next t) : ∃ os, Accounted s t os := by
  obtain ⟨_, _, ⟨_, _, rfl⟩ | ⟨_, _, w, _, rfl⟩ | ⟨_, rfl⟩⟩ := echoByte_eq_next.mp ht
  · have hrelease : Accounted s (emit (.txen false) { s with idx := s.idx + 1, txen := false }) [.txen false] :=
      accounted_release htxen rfl rfl rfl
    exact ⟨_, hrelease.trans (accounted_completeSend okCode hpend)⟩
  · exact ⟨_, accounted_write w htxen rfl rfl rfl⟩
  · exact ⟨_, accounted_enterJamming htxen⟩

theorem accounted_backoffAfterDraw (delay : Nat) (hpend : s.sendPending = true) :
    ∃ os, Accounted s (backoffAfterDraw delay s) os := by
  rw [backoffAfterDraw_eq]
  split_ifs
  · have hcounted : Accounted s { s with retry := s.retry + 1 } [] := .of_silent rfl rfl rfl
    exact ⟨_, hcounted.trans (accounted_completeSend _ hpend)⟩
  · exact ⟨_, .of_silent rfl rfl rfl⟩
  · exact ⟨_, .of_silent rfl rfl rfl⟩

/-- A transmission enables the line before its first byte (43_mac.md R184). -/
theorem accounted_of_sensingExpiry (htxen : s.txen = false) (ht : sensingExpiry P s = .next t) :
    ∃ os, Accounted s t os := by
  obtain ⟨_, u, hu, hends⟩ := sensingExpiry_eq_next.mp ht
  obtain ⟨answers, input, asked, rfl⟩ : ∃ answers input asked,
      u = { s with lineIdleAns := answers, input := input, asked := asked } :=
    ⟨_, _, _, lineIdleAnswered_eq hu⟩
  rcases hends with ⟨_, rfl⟩ | ⟨_, _, hbegin⟩ | ⟨_, _, rfl⟩
  · exact ⟨_, .of_silent rfl rfl rfl⟩
  · obtain ⟨b, _, _, _, _, rfl⟩ := beginTransmit_eq_next.mp hbegin
    exact ⟨[.txen true, .write b], ⟨rfl, by rw [htxen]; rfl⟩, Nat.zero_add _⟩
  · exact ⟨_, .of_silent rfl rfl rfl⟩

theorem accounted_of_jammingExpiry (htxen : s.txen = true) (hpend : s.sendPending = true)
    (ht : jammingExpiry s = .next t) : ∃ os, Accounted s t os := by
  obtain ⟨_, _, x, u, hu, rfl⟩ := enterBackoff_eq_next.mp ht
  have hanswered := randomAnswered_eq hu
  have hrelease : Accounted s u [.txen false] :=
    accounted_release htxen ((congrArg State.out hanswered).trans rfl) ((congrArg State.txen hanswered).trans rfl)
      ((congrArg State.sendPending hanswered).trans rfl)
  obtain ⟨os, hdrawn⟩ := accounted_backoffAfterDraw _ ((congrArg State.sendPending hanswered).trans hpend)
  exact ⟨_, hrelease.trans hdrawn⟩

theorem accounted_writeConfig (idx : Byte) (val : Word) (s : State) : Accounted s (writeConfig idx val s) [] := by
  unfold writeConfig
  split_ifs
  · exact .of_silent rfl rfl rfl
  · obtain ⟨c, hc⟩ := writeReg_exists idx val s
    rw [hc]
    exact .of_silent rfl rfl rfl

theorem accounted_initialise (P : Params) (s : State) : Accounted s (initialise P s) [] := by
  unfold initialise
  split_ifs
  · exact .of_silent rfl rfl rfl
  · exact .of_silent rfl rfl rfl
  · exact .of_silent (enterIdle_out _) (enterIdle_txen _) (enterIdle_sendPending _)

/-! #### The three operations after which the account of the request is open: `SEND`, `CANCEL` and `RESET` -/

theorem lineFollows_of_requestSend {dst : Byte} {len : Half} {payload : List Byte}
    (ht : requestSend P dst len payload s = .next t) : LineFollows s t [] := by
  rcases requestSend_next ht with ⟨_, rfl⟩ | ⟨_, _, _, rfl⟩ | ⟨_, _, _, _, rfl⟩ <;> exact .of_silent rfl rfl

/-- `SEND` ends no request. -/
theorem sendPending_of_requestSend {dst : Byte} {len : Half} {payload : List Byte}
    (ht : requestSend P dst len payload s = .next t) (hpend : s.sendPending = true) : t.sendPending = true := by
  rcases requestSend_next ht with ⟨_, rfl⟩ | ⟨_, _, _, rfl⟩ | ⟨_, _, _, _, rfl⟩
  · exact hpend
  · exact hpend
  · rfl

theorem lineFollows_cancelSend (s : State) : LineFollows s (cancelSend s) [] := by
  unfold cancelSend
  split_ifs <;> exact .of_silent rfl rfl

/-- `RESET` releases the line if it is driven (70_reset_and_hazards.md R290). -/
theorem lineFollows_resetBlock (s : State) :
    LineFollows s (resetBlock s) (if s.txen = true then [.txen false] else []) := by
  rw [resetBlock_eq]
  cases htxen : s.txen with
  | true => exact ⟨rfl, by rw [htxen]; rfl⟩
  | false => exact .of_silent rfl htxen.symm

end

end Machine

/-! ### The account of the two events, from a state that keeps the invariants -/

namespace Inv

variable {P : Params} {s t : State}

/-- `BYTE`, phase by phase (43_mac.md R177): where it writes or reports, the line is driven and the request pending. -/
theorem accounted_of_byteArrives (h : Inv P s) {b : Byte} (ht : byteArrives P b s = .next t) :
    ∃ os, Accounted s t os := by
  have hdriven (hp : Driving s.phase) : s.txen = true := h.driving.mpr hp
  rcases byteArrives_eq_next.mp ht with ⟨_, rfl⟩ | ⟨_, ⟨_, ht⟩ | ⟨_, ht⟩ | ⟨hp, ht⟩ | ⟨hp, rfl⟩⟩
  · exact ⟨_, .of_silent rfl rfl rfl⟩
  · have hstart : Accounted s (enterReceiving s) [] := .of_silent rfl rfl rfl
    obtain ⟨os, hbody⟩ := accounted_of_rxByte ht
    exact ⟨_, hstart.trans hbody⟩
  · exact accounted_of_rxByte ht
  · exact accounted_of_echoByte (hdriven (.inl hp)) (h.pendingPhase (.inl (.inl hp))) ht
  · exact ⟨_, accounted_write delim (hdriven (.inr hp)) rfl rfl rfl⟩

/-- The expiry rules, phase by phase (R178). -/
theorem accounted_of_expiry (h : Inv P s) (ht : expiry P { s with timer := 0 } = .next t) :
    ∃ os, Accounted { s with timer := 0 } t os := by
  rcases expiry_eq_next.mp ht with ⟨hp, ht⟩ | ⟨hp, rfl⟩ | ⟨hp, ht⟩ | ⟨_, rfl⟩ | ⟨_, rfl⟩
  · change s.phase = .sensingCarrier at hp
    exact accounted_of_sensingExpiry (h.txen_eq_false (by simp [hp, Driving])) ht
  · exact ⟨_, accounted_enterJamming (h.driving.mpr (.inl hp))⟩
  · exact accounted_of_jammingExpiry (h.driving.mpr (.inr hp)) (h.pendingPhase (.inl (.inr hp))) ht
  · exact ⟨_, .of_silent rfl rfl rfl⟩
  · exact ⟨_, accounted_enterIdle_emit rfl rfl⟩

theorem accounted_of_tickElapses (h : Inv P s) (ht : tickElapses P s = .next t) : ∃ os, Accounted s t os := by
  rcases tickElapses_eq_next.mp ht with ⟨_, rfl⟩ | ⟨_, hexpiry⟩ | ⟨_, rfl⟩
  · exact ⟨_, .of_silent rfl rfl rfl⟩
  · have hcounted : Accounted s { s with timer := 0 } [] := .of_silent rfl rfl rfl
    obtain ⟨os, hends⟩ := h.accounted_of_expiry hexpiry
    exact ⟨_, hcounted.trans hends⟩
  · exact ⟨_, .of_silent rfl rfl rfl⟩

/-- Operation by operation: each is accounted for, or is silent toward the host because it ends the request unreported
(`CANCEL`, `RESET`) or ends none (`SEND`). -/
theorem accounted_or_unreported (h : Inv P s) {i : Instr} (hdir : i.dir = .toBlock) (ht : execFor P i s = .next t) :
    (i ≠ .cancel ∧ i ≠ .reset ∧ ∃ os, Accounted s t os) ∨
    ∃ os, LineFollows s t os ∧ sendDones os = 0 ∧
      (i = .cancel ∨ i = .reset ∨ (s.sendPending = true → t.sendPending = true)) := by
  cases i with
  | lineidle | random | txen | write | senddone | rxdeliver | drop => cases hdir
  | byte => exact .inl ⟨nofun, nofun, h.accounted_of_byteArrives ht⟩
  | tick => exact .inl ⟨nofun, nofun, h.accounted_of_tickElapses ht⟩
  | cfgwr idx val =>
    cases ht
    exact .inl ⟨nofun, nofun, _, accounted_writeConfig idx val s⟩
  | rdreg =>
    cases ht
    exact .inl ⟨nofun, nofun, _, .of_silent rfl rfl rfl⟩
  | init =>
    cases ht
    exact .inl ⟨nofun, nofun, _, accounted_initialise P s⟩
  | send => exact .inr ⟨_, lineFollows_of_requestSend ht, rfl, .inr (.inr (sendPending_of_requestSend ht))⟩
  | cancel =>
    cases ht
    exact .inr ⟨_, lineFollows_cancelSend s, rfl, .inl rfl⟩
  | reset =>
    cases ht
    exact .inr ⟨_, lineFollows_resetBlock s, by split_ifs <;> rfl, .inr (.inl rfl)⟩

end Inv

/-- Settles O48: the line follows the outputs of every input operation, whether or not it reports. -/
theorem theBlockNeverWritesWithTheLineOff : Obligations.TheBlockNeverWritesWithTheLineOff := by
  intro i s t h hdir ht
  rw [exec_eq_execFor] at ht
  obtain ⟨os, hline⟩ : ∃ os, LineFollows s t os := by
    rcases h.accounted_or_unreported hdir ht with ⟨_, _, os, haccount⟩ | ⟨os, hline, _⟩
    · exact ⟨os, haccount.toLineFollows⟩
    · exact ⟨os, hline⟩
  exact ⟨⟨os, hline.out⟩, by rw [hline.emitted_eq, hline.level]⟩

/-- Settles O49: where the account is kept, the reports are the requests that ended; where it is not, there is no report
and none is due. -/
theorem aRequestThatEndsIsReportedOnce : Obligations.ARequestThatEndsIsReportedOnce := by
  intro i s t h hdir ht
  rw [exec_eq_execFor] at ht
  rcases h.accounted_or_unreported hdir ht with ⟨hcancel, hreset, os, haccount⟩ | ⟨os, hline, hnone, hundue⟩
  · rw [haccount.emitted_eq, haccount.sendDones_eq]
    simp only [ne_eq, hcancel, hreset, not_false_eq_true, and_true]
  · rw [hline.emitted_eq, hnone, if_neg]
    rintro ⟨hpend, hended, hcancel, hreset⟩
    rcases hundue with hi | hi | hkept
    · exact hcancel hi
    · exact hreset hi
    · exact absurd (hended.symm.trans (hkept hpend)) (by decide)

/-! ### Where questions are asked (R263, R264, 44_backoff.md R237) -/

namespace Machine

section

variable {P : Params} {s t : State}

theorem asked_of_sensingExpiry (ht : sensingExpiry P s = .next t) : t.asked = s.asked ++ [.lineIdle] := by
  obtain ⟨_, u, hu, hends⟩ := sensingExpiry_eq_next.mp ht
  have hasked : u.asked = s.asked ++ [.lineIdle] := (congrArg State.asked (lineIdleAnswered_eq hu)).trans rfl
  rcases hends with ⟨_, rfl⟩ | ⟨_, _, hbegin⟩ | ⟨_, _, rfl⟩
  · exact hasked
  · exact ((asksNothing_beginTransmit P).asked_eq hbegin).trans hasked
  · exact hasked

theorem backoffAfterDraw_asked (delay : Nat) (s : State) : (backoffAfterDraw delay s).asked = s.asked := by
  rw [backoffAfterDraw_eq]
  split_ifs
  · exact completeSend_asked _ _
  · rfl
  · rfl

/-- The one question of a jam expiry is asked with the scaled range of R232. -/
theorem asked_of_jammingExpiry (ht : jammingExpiry s = .next t) :
    t.asked = s.asked ++ [.random (backoffHi s - backoffLo s + 1)] := by
  obtain ⟨_, _, x, u, hu, rfl⟩ := enterBackoff_eq_next.mp ht
  exact (backoffAfterDraw_asked _ u).trans ((congrArg State.asked (randomAnswered_eq hu)).trans rfl)

theorem asked_of_expiry (ht : expiry P s = .next t) :
    (s.phase = .sensingCarrier ∧ t.asked = s.asked ++ [.lineIdle]) ∨
    (s.phase = .jamming ∧ t.asked = s.asked ++ [.random (backoffHi s - backoffLo s + 1)]) ∨
    (¬(s.phase = .sensingCarrier ∨ s.phase = .jamming) ∧ t.asked = s.asked) := by
  rcases expiry_eq_next.mp ht with ⟨hp, ht⟩ | ⟨hp, rfl⟩ | ⟨hp, ht⟩ | ⟨hp, rfl⟩ | ⟨hp, rfl⟩
  · exact .inl ⟨hp, asked_of_sensingExpiry ht⟩
  · exact .inr (.inr ⟨by simp [hp], rfl⟩)
  · exact .inr (.inl ⟨hp, asked_of_jammingExpiry ht⟩)
  · exact .inr (.inr ⟨by simp [hp], rfl⟩)
  · exact .inr (.inr ⟨by simp [hp], enterIdle_asked _⟩)

end

end Machine

/-- Settles O51: only `TICK` can ask, only where the timer expires, and then by the expiry rule of the phase. -/
theorem questionsAreAskedOnlyAtTheTwoExpiries : Obligations.QuestionsAreAskedOnlyAtTheTwoExpiries := by
  intro i s t ht
  rw [exec_eq_execFor] at ht
  by_cases hi : i = .tick
  · subst hi
    rcases tickElapses_eq_next.mp ht with ⟨hzero, rfl⟩ | ⟨hone, hexpiry⟩ | ⟨hmore, rfl⟩
    · exact .inl ⟨rfl, by simp [hzero]⟩
    · rcases asked_of_expiry hexpiry with ⟨hp, hasked⟩ | ⟨hp, hasked⟩ | ⟨hp, hasked⟩
      · exact .inr (.inl ⟨rfl, hone, hp, hasked⟩)
      · exact .inr (.inr ⟨rfl, hone, hp, hasked⟩)
      · exact .inl ⟨hasked, fun ⟨_, _, hasks⟩ => hp hasks⟩
    · exact .inl ⟨rfl, fun ⟨_, hone, _⟩ => by simp [hone] at hmore⟩
  · exact .inl ⟨(asksNothing_execFor defaultParams hi).asked_eq ht, fun ⟨htick, _⟩ => hi htick⟩

/-! ### The fault mode (R256) -/

/-- Settles O20: a faulted block is not running and at rest, so nothing is timed, pending or driven. -/
theorem faultModeAnswersOnlyResetAndRdreg : Obligations.FaultModeAnswersOnlyResetAndRdreg := by
  intro s h hfault
  have hrun : running s = false := by simp [running, hfault]
  have hrest := h.resting hrun
  refine ⟨fun idx val => congrArg Host.Outcome.next (writeConfig_of_locked (.inr hfault) idx val),
    fun idx => ⟨readReg idx s, rfl⟩, congrArg Host.Outcome.next (initialise_of_locked (.inr hfault)),
    fun dst len payload => requestSend_of_refused dst (.inl hrun), ?_,
    fun b => bytesAreDiscardedInBackingOffAndWhenNotRunning s b (.inl hrun), ?_, resetBlock s, rfl, ?_, ?_⟩
  · exact (cancelWithdrawsOnlyBeforeTransmission s).2 (by simp [hrest.sendPending])
  · exact (aTickCountsTheTimerDown s).1 hrest.timer
  · rw [resetBlock_eq]
    rfl
  · rw [resetBlock_eq]
    exact if_neg (by simp [hrest.txen])

/-! ### Answers of the collaborators (R259, R263, R264) -/

/-- Settles O35: the expiry rule of `Jamming` releases the line and asks, and the supplied answer is refused; neither
the timer nor the line has a part in the range or in what is supplied. -/
theorem aDrawOutsideItsRangeIsRefused : Obligations.ADrawOutsideItsRangeIsRefused := by
  intro s v hp htimer hrange hfits hsupplied hlarge
  have hrefused : enterBackoff (jamEnded s) = .refused .randomOutOfRange :=
    (enterBackoff_eq_refused (s := jamEnded s) (Nat.mul_le_mul_right _ hrange) hfits).mpr ⟨v, hsupplied, hlarge⟩
  calc exec .tick s
      = expiry defaultParams { s with timer := 0 } := by simp [exec, execTick, tickElapses, htimer]
    _ = jammingExpiry { s with timer := 0 } := expiry_of_jamming hp
    _ = .refused .randomOutOfRange := hrefused

/-- Settles O39: the two arms of the dispatch append to the two queues. -/
theorem answersAreKeptForTheirQuestions : Obligations.AnswersAreKeptForTheirQuestions :=
  fun _ _ => ⟨rfl, rfl⟩

end Sys2Proof

/-!
SUPPORT. The family 70_reset_and_hazards.md: `RESET` (R290) and the boot sequence (R293). `RESET` unlocks, a `CONFIG` of
any listing then writes its registers one after the other, and `INIT` meets what they hold. The listing of all nine
registers overwrites every configuration register, so nothing of the state before is left in what `INIT` validates.
-/

namespace Sys2Proof

open Machine

/-- Settles O18: the output is that of the line's account, every other field is the one that `RESET` leaves. -/
theorem resetClearsEveryRegisterAndReleasesTheBus : Obligations.ResetClearsEveryRegisterAndReleasesTheBus := by
  intro s
  have hout := (lineFollows_resetBlock s).out
  refine ⟨resetBlock s, rfl, ?_⟩
  rw [resetBlock_eq] at hout ⊢
  exact ⟨rfl, rfl, rfl, rfl, rfl, rfl, rfl, rfl, rfl, rfl, rfl, rfl, rfl, rfl, rfl, rfl, rfl, rfl, rfl, rfl, rfl, rfl,
    hout, rfl, rfl, rfl, rfl, rfl⟩

namespace Machine

/-! ### `CONFIG` and `BOOT` (30_encoding.md R103, R293) -/

/-- The block after the registers of a listing are written in its order. -/
def writeListed (listed : List (ConfigReg × Word)) (s : State) : State :=
  listed.foldl (fun s r => writeReg (configIndex r.1) r.2 s) s

/-- While the configuration is unlocked, a `CONFIG` writes what it lists: no `CFGWR` locks it (R150). -/
theorem runScript_config (listed : List (ConfigReg × Word)) {s : State} (hvalid : s.cfgValid = false)
    (hfault : s.fault = false) : runScript (scriptConfigListed listed) s = .next (writeListed listed s) := by
  induction listed generalizing s with
  | nil => rfl
  | cons r listed ih =>
    have hfirst : exec (.cfgwr (configIndex r.1) r.2) s = .next (writeReg (configIndex r.1) r.2 s) :=
      congrArg Host.Outcome.next (writeConfig_of_unlocked hvalid hfault (configIndex r.1) r.2)
    obtain ⟨c, hc⟩ := writeReg_exists (configIndex r.1) r.2 s
    calc runScript (scriptConfigListed (r :: listed)) s
        = andThen (exec (.cfgwr (configIndex r.1) r.2) s) (runScript (scriptConfigListed listed)) := rfl
      _ = runScript (scriptConfigListed listed) (writeReg (configIndex r.1) r.2 s) := by rw [hfirst, andThen_next]
      _ = .next (writeListed listed (writeReg (configIndex r.1) r.2 s)) :=
        ih (by rw [hc]; exact hvalid) (by rw [hc]; exact hfault)

/-- A `BOOT` comes to its `INIT` from every state, whatever it lists: `RESET` has unlocked the configuration. -/
theorem runScript_boot (listed : List (ConfigReg × Word)) (s : State) :
    runScript (scriptBootListed listed) s =
      .next (initialise defaultParams (writeListed listed (resetBlock s))) := by
  have hconfig := runScript_config listed (s := resetBlock s) (by rw [resetBlock_eq]; rfl) (by rw [resetBlock_eq]; rfl)
  calc runScript (scriptBootListed listed) s
      = runScript (scriptConfigListed listed ++ [.init]) (resetBlock s) := rfl
    _ = runScript [.init] (writeListed listed (resetBlock s)) := by rw [runScript_append, hconfig, andThen_next]
    _ = .next (initialise defaultParams (writeListed listed (resetBlock s))) := rfl

/-- The four registers narrower than a `CFGWR` value come back from it as they were widened. -/
theorem writeListed_wholeListing (c : Configuration) (s : State) :
    writeListed (wholeListing c) s = configured c s := by
  have hnarrow {w : Nat} (x : BitVec w) (hw : w ≤ 32) : (x.setWidth 32).setWidth w = x := by
    rw [BitVec.setWidth_setWidth_of_le x hw, BitVec.setWidth_eq]
  show { configured c s with
      maxRetries := (c.maxRetries.setWidth 32).setWidth 5, localAddr := (c.localAddr.setWidth 32).setWidth 8,
      bcastAddr := (c.bcastAddr.setWidth 32).setWidth 8, maxPayload := (c.maxPayload.setWidth 32).setWidth 16 } =
    configured c s
  rw [hnarrow _ (by decide), hnarrow _ (by decide), hnarrow _ (by decide), hnarrow _ (by decide)]
  rfl

/-- `configured` leaves no configuration register of the state it is given. -/
theorem sameConfiguration_configured (c : Configuration) (s t : State) :
    SameConfiguration (configured c s) (configured c t) :=
  ⟨rfl, rfl, rfl, rfl, rfl, rfl, rfl, rfl, rfl⟩

end Machine

/-- Settles O21: the nine writes leave the configuration as written, which passes after `RESET` as it does before, so
`INIT` locks it and listens. -/
theorem theBootSequenceStartsListening : Obligations.TheBootSequenceStartsListening := by
  intro s c hpass
  have hsame := sameConfiguration_configured c s (resetBlock s)
  have hpass' := (validateConfig_of_same defaultParams hsame).trans hpass
  have hboot := runScript_boot (wholeListing c) s
  rw [writeListed_wholeListing] at hboot
  rw [resetBlock_eq] at hboot hsame hpass'
  rw [initialise_of_valid rfl rfl hpass'] at hboot
  exact ⟨_, hboot, rfl, rfl, rfl, rfl, rfl, rfl, hsame⟩

end Sys2Proof
